-- ==== Sys2Proof/Word.lean ====
section
/-! DEFINITION. The block's words: bytes, 16-bit fields and 32-bit registers.
Every value is unsigned (00_scope.md R11), and bit 0 is the least significant bit (R10). -/

namespace Sys2Proof

/-- A byte of a buffer, of the payload or of a wire packet. -/
abbrev Byte := BitVec 8

/-- A 16-bit wire field (PacketCount and the three multi-byte telemetry fields). -/
abbrev Half := BitVec 16

/-- A 32-bit host-interface register, and the command word (00_scope.md R9). -/
abbrev Word := BitVec 32

end Sys2Proof
end

