-- ==== Sys2Proof/Config.lean ====
section
/-! DEFINITION. What is fixed for one block (00_scope.md R8, R9), the platform parameter the spec leaves open
(20_memory.md R69), and the free values of unspecified bytes (R57). -/

namespace Sys2Proof.Config

/-- `IN_BUF_SIZE` (00_scope.md R9): the default of the parameter. DESIGN CHOICE: log entry 5. -/
def inBufSize : Nat := 256

/-- `OUT_BUF_SIZE` (00_scope.md R9): the default of the parameter. DESIGN CHOICE: log entry 5. -/
def outBufSize : Nat := 256

/-- `PAYLOAD_CAP` (00_scope.md R8, R9). -/
def payloadCap : Nat := 250

/-- The number of byte addresses of the register window (20_memory.md R50). -/
def windowSize : Nat := 0x400

/-- `PHC_BASE`, the base address of the register window on the platform's bus: left OPEN by 20_memory.md R69.
A constant with no body, so no claim can rest on its value. Log entry 4. -/
opaque phcBase : Nat

/-- The draws of 20_memory.md R57 and R70: `drawByte n j` is the value that the `n`-th draw gives to the unspecified
byte `j` of a buffer. It has no body, so nothing is known of any value. Log entry 3. -/
opaque drawByte : Nat → Nat → Byte

end Sys2Proof.Config
end

