-- ==== Sys2Proof/Syntax.lean ====
section
/-! DEFINITION. The command set PHC-CMD v1: one constructor per row of spec/opcode_table.json.
No command word holds an operand (30_encoding.md R80): operands are in ARG0 to ARG7 and IN_BUF (R94), so no constructor has
an argument. -/

namespace Sys2Proof

/-- The commands of 30_encoding.md R82, in the table's order. -/
inductive Instr where
  /-- NEW, R130: make the packet context empty. -/
  | new
  /-- PARSE, R132: deserialize the wire packet in IN_BUF into the packet context. -/
  | parse
  /-- SERIALIZE, R160: emit the packet context as a wire packet in OUT_BUF. -/
  | serialize
  /-- SET_COMMAND, R136: set exactly one command tag bit. -/
  | setCommand
  /-- SET_PAYLOAD, R140: replace the payload with IN[0..IN_LEN) and recompute Length. -/
  | setPayload
  /-- SET_PACKET_COUNT, R144: store the sequence number. -/
  | setPacketCount
  /-- SET_TELEMETRY, R152: build a Response packet that carries a telemetry record. -/
  | setTelemetry
  /-- GET_COMMAND, R146: report the command tag. -/
  | getCommand
  /-- GET_ACK, R147: report the acknowledgement flag. -/
  | getAck
  /-- GET_LENGTH, R148: report the header Length field. -/
  | getLength
  /-- GET_PAYLOAD, R149: copy the payload out to OUT_BUF. -/
  | getPayload
  /-- GET_PACKET_COUNT, R150: report the sequence number. -/
  | getPacketCount
  /-- HAS_TELEMETRY, R154: report whether the packet carries a telemetry record. -/
  | hasTelemetry
  /-- GET_TELEMETRY, R155: return the six telemetry fields. -/
  | getTelemetry
  /-- GET_CHECKSUM, R156: report the stored checksum byte. -/
  | getChecksum
  /-- HDR_DECODE, R114: decode a 4-byte header from IN_BUF. -/
  | hdrDecode
  /-- HDR_ENCODE, R116: pack a header from ARG0 to ARG6 into OUT_BUF. -/
  | hdrEncode
  /-- CK_COMPUTE, R192: the checksum of IN[0..IN_LEN). -/
  | ckCompute
  /-- CK_VERIFY, R194: check the checksum byte at offset ARG0 of IN_BUF. -/
  | ckVerify
  /-- DRIVE_DECODE, R212: decode a 3-byte drive body. -/
  | driveDecode
  /-- DRIVE_ENCODE, R213: encode a drive body. -/
  | driveEncode
  /-- TELEM_DECODE, R216: decode a 9-byte telemetry record. -/
  | telemDecode
  /-- TELEM_ENCODE, R217: encode a telemetry record. -/
  | telemEncode
deriving DecidableEq, Repr

end Sys2Proof
end

