-- ==== Sys2Proof/WellFormed.lean ====
section
/-! DEFINITION. What a well-formed command and a well-formed command word are.
A command has no operand field (30_encoding.md R80), so the only forms that can be ill are words: a word with a reserved
bit set, and a word with a reserved opcode (R98 a, b). The reserved opcodes are written here from the ranges of R84, not
from the opcode map of R82, so that the decoder can be held against them. -/

namespace Sys2Proof

/-- The reserved opcode values, as 30_encoding.md R84 lists them. -/
def reservedOpcodeRange (opc : Nat) : Bool :=
  opc == 0x00 || (0x04 ≤ opc && opc ≤ 0x0F) || (0x14 ≤ opc && opc ≤ 0x1F) || (0x28 ≤ opc && opc ≤ 0x2F) ||
    (0x32 ≤ opc && opc ≤ 0x3F) || (0x42 ≤ opc && opc ≤ 0x4F) || (0x54 ≤ opc && opc ≤ 0xFF)

/-- A command word whose reserved bits are 0 and whose opcode is not reserved (30_encoding.md R80, R84). -/
def wordWellFormed (w : Word) : Bool :=
  w.toNat / 256 == 0 && !reservedOpcodeRange (w.toNat % 256)

/-- Every command is well formed: it has no operand that could be out of range (30_encoding.md R80, R94). -/
def Instr.wellFormed (i : Instr) : Bool :=
  match i with
  | .new | .parse | .serialize | .setCommand | .setPayload | .setPacketCount | .setTelemetry | .getCommand | .getAck
  | .getLength | .getPayload | .getPacketCount | .hasTelemetry | .getTelemetry | .getChecksum | .hdrDecode | .hdrEncode
  | .ckCompute | .ckVerify | .driveDecode | .driveEncode | .telemDecode | .telemEncode => true

end Sys2Proof
end

