-- ==== Sys2Proof/Decode.lean ====
section
/-! DEFINITION. The command word (30_encoding.md R80 to R84): the decoder, total on every 32-bit word, and the encoder.
A command is one 32-bit register write, so there is no byte order and no length to find (R83, 20_memory.md R63). -/

namespace Sys2Proof

/-- Why a word written to CMD selects no command (30_encoding.md R98 a and b). Either one completes with
ILLEGAL_COMMAND, an ordinary next state (R81, 93_implementation_defined.md I17). -/
inductive DecodeError where
  /-- RSV, bits [31:8], is not 0 (30_encoding.md R98 a). -/
  | reservedBitsSet (rsv : BitVec 24)
  /-- OPC is a reserved opcode value (30_encoding.md R84, R98 b). -/
  | reservedOpcode (opc : Byte)
deriving DecidableEq, Repr

/-- OPC, bits [7:0] of a command word (30_encoding.md R80). -/
def opcField (w : Word) : Byte := w.extractLsb' 0 8

/-- RSV, bits [31:8] of a command word (30_encoding.md R80). -/
def rsvField (w : Word) : BitVec 24 := w.extractLsb' 8 24

/-- The command an opcode selects: the opcode map of 30_encoding.md R82. -/
def commandOf? (opc : Byte) : Option Instr :=
  match opc with
  | 0x01#8 => some .new
  | 0x02#8 => some .parse
  | 0x03#8 => some .serialize
  | 0x10#8 => some .setCommand
  | 0x11#8 => some .setPayload
  | 0x12#8 => some .setPacketCount
  | 0x13#8 => some .setTelemetry
  | 0x20#8 => some .getCommand
  | 0x21#8 => some .getAck
  | 0x22#8 => some .getLength
  | 0x23#8 => some .getPayload
  | 0x24#8 => some .getPacketCount
  | 0x25#8 => some .hasTelemetry
  | 0x26#8 => some .getTelemetry
  | 0x27#8 => some .getChecksum
  | 0x30#8 => some .hdrDecode
  | 0x31#8 => some .hdrEncode
  | 0x40#8 => some .ckCompute
  | 0x41#8 => some .ckVerify
  | 0x50#8 => some .driveDecode
  | 0x51#8 => some .driveEncode
  | 0x52#8 => some .telemDecode
  | 0x53#8 => some .telemEncode
  | _ => none

/-- Decoding a word written to CMD (30_encoding.md R81): RSV is checked first, then OPC. -/
def decode (w : Word) : Except DecodeError Instr :=
  if rsvField w ≠ 0#24 then .error (.reservedBitsSet (rsvField w))
  else
    match commandOf? (opcField w) with
    | some i => .ok i
    | none => .error (.reservedOpcode (opcField w))

/-- The opcode of a command, from the same map (30_encoding.md R82). -/
def opcode (i : Instr) : Byte :=
  match i with
  | .new => 0x01#8
  | .parse => 0x02#8
  | .serialize => 0x03#8
  | .setCommand => 0x10#8
  | .setPayload => 0x11#8
  | .setPacketCount => 0x12#8
  | .setTelemetry => 0x13#8
  | .getCommand => 0x20#8
  | .getAck => 0x21#8
  | .getLength => 0x22#8
  | .getPayload => 0x23#8
  | .getPacketCount => 0x24#8
  | .hasTelemetry => 0x25#8
  | .getTelemetry => 0x26#8
  | .getChecksum => 0x27#8
  | .hdrDecode => 0x30#8
  | .hdrEncode => 0x31#8
  | .ckCompute => 0x40#8
  | .ckVerify => 0x41#8
  | .driveDecode => 0x50#8
  | .driveEncode => 0x51#8
  | .telemDecode => 0x52#8
  | .telemEncode => 0x53#8

/-- The command word of a command, format C32: RSV = 0 in the high bits, OPC in [7:0] (30_encoding.md R80). -/
def encode (i : Instr) : Word := 0#24 ++ opcode i

/-- What the decoder reads from a word of `nbits` bits numbered as spec/opcode_table.json numbers them (bit 0 of the
command word is bit 0 of the number). A command is exactly one 32-bit word (30_encoding.md R83), so a longer word with a
bit set above bit 31 is no command. -/
def decodeTableWord (nbits w : Nat) : Option Instr :=
  let bits := w % 2 ^ nbits
  if bits < 2 ^ 32 then (decode (BitVec.ofNat 32 bits)).toOption else none

end Sys2Proof
end

