-- ==== Sys2Proof/Machine/State.lean ====
section
/-! DEFINITION. The state of the block (10_state.md), the host events it answers to, the reasons a step can stop, and the
state after reset (R44). Plain data throughout. -/

namespace Sys2Proof.Machine

/-- A byte memory: the bytes that hold a known value, as (index, byte) pairs, indices strictly rising. An unlisted byte is
unspecified and reads as a draw (20_memory.md R57), so no byte value stands for it and every listed entry counts. -/
abbrev Memory := List Host.Cell

/-- The completion codes of STATUS[7:0] (60_exceptions.md R231): the nine values that are ever produced, which R231 lets a
model take as the register's only values. Log entry 8. -/
inductive Completion where
  /-- Code 0: success. -/
  | ok
  /-- Code 1: fewer than 4 bytes for a header. -/
  | malformedHeader
  /-- Code 2: the buffer is shorter than the declared Length, or the checksum offset lies outside it. -/
  | truncatedPacket
  /-- Code 3: Length below the minimum of 5. -/
  | invalidLength
  /-- Code 4: a payload interpreter given the wrong byte count. -/
  | invalidPayloadSize
  /-- Code 5: a payload of more than 250 bytes. -/
  | payloadTooLarge
  /-- Code 6: a tag code that is no tag. -/
  | invalidOperand
  /-- Code 7: a word written to CMD that selects no command. -/
  | illegalCommand
  /-- Code 8: GET_TELEMETRY on a packet without telemetry. -/
  | noTelemetry
deriving DecidableEq, Repr

/-- The header record of a packet (30_encoding.md R87, 41_header_codec.md R110): 32 bits in seven fields. The three tag bits
are independent (10_state.md R30). -/
structure Header where
  /-- PacketCount (10_state.md R29). -/
  count : Half
  /-- The Drive tag bit (R30). -/
  drive : Bool
  /-- The Status (Response) tag bit (R30). -/
  status : Bool
  /-- The Sleep tag bit (R30). -/
  sleep : Bool
  /-- The acknowledgement flag (R31). -/
  ack : Bool
  /-- Padding, which round-trips unchanged (R32). -/
  pad : BitVec 4
  /-- Length: header, payload and checksum byte (R33). -/
  length : Byte
deriving DecidableEq, Repr

/-- The packet context: the block's one Packet (10_state.md R29 to R35). -/
structure Packet where
  /-- P.count, P.drive, P.status, P.sleep, P.ack, P.pad and P.length: `HeaderOf(P)` (41_header_codec.md R113). -/
  header : Header
  /-- P.payload, whose length is state too (10_state.md R34). -/
  payload : List Byte
  /-- P.checksum (10_state.md R35). -/
  checksum : Byte
deriving DecidableEq, Repr

/-- One thing the outside does to the block: a bus access of the host at a block-relative byte address (00_scope.md R12,
20_memory.md R53), or a reset pulse (70_reset_and_hazards.md R260). Log entries 1, 4, 7 and 9. -/
inductive HostEvent where
  /-- `MemRead(offset, width)`. -/
  | read (offset width : Nat)
  /-- `MemWrite(offset, width, value)`. A 1-byte write carries its byte in `value[7:0]` (log entry 7). -/
  | write (offset width : Nat) (value : Word)
  /-- The reset input is asserted and released. -/
  | reset
deriving DecidableEq, Repr

/-- The state of the block, with the host events it has still to answer. -/
structure State where
  /-- CMD: the last word written to it (10_state.md R20). -/
  cmd : Word
  /-- ARG0 to ARG7 (10_state.md R21). -/
  arg : Vector Word 8
  /-- RES0 to RES7 (10_state.md R22). -/
  res : Vector Word 8
  /-- STATUS, as its completion code (10_state.md R23). -/
  status : Completion
  /-- IN_LEN (10_state.md R24). -/
  inLen : Word
  /-- OUT_LEN (10_state.md R25). -/
  outLen : Word
  /-- IN_BUF: the bytes the host has written since reset, by index (10_state.md R26, 20_memory.md R51, R57 a). -/
  inBuf : Memory
  /-- OUT_BUF: the bytes the last output command wrote, by index (10_state.md R26, R39, 20_memory.md R52, R71). -/
  outBuf : Memory
  /-- The packet context (10_state.md R29 to R35). -/
  pkt : Packet
  /-- The host's events not yet performed, the next one first: the host's program (10_state.md R27). Log entry 1. -/
  pending : List HostEvent
  /-- What the host's reads have returned, oldest first. Log entry 2. -/
  received : List Word
  /-- The index of the next free value (20_memory.md R57). The model's own counter: log entry 3. -/
  draws : Nat
deriving DecidableEq, Repr

/-- The stuck host accesses: 20_memory.md R54 to R56 call them REFUSED, "the refused access has no step, and the host agent is
stuck", "never a final state" (60_exceptions.md R242 b). No command raises one. Every one of them is SAFE: the model stops where
silicon might go on. Log entry 6. -/
inductive Fault where
  /-- Raised by a host access of the wrong width for its place: not 4 bytes for a register, not 1 byte for a buffer
  (20_memory.md R54). Safe. -/
  | wrongWidth
  /-- Raised by a 4-byte host access to a register at an address that is no multiple of 4 (20_memory.md R54). Safe. -/
  | misaligned
  /-- Raised by a host access to a reserved offset (20_memory.md R56). Safe. -/
  | reservedOffset
  /-- Raised by a host access at an address outside the 1024 addresses of the window (20_memory.md R50). Safe. -/
  | outsideWindow
  /-- Raised by a host write of a value above IN_BUF_SIZE to IN_LEN (20_memory.md R55). Safe. -/
  | inLenTooLarge
deriving DecidableEq, Repr

/-- Why an instruction has no meaning in the model. -/
inductive Refusal where
  /-- Raised by the dispatch of a command the model does not give a meaning; no arm of this model raises it. Safe. -/
  | notModelled (mnemonic : String)
deriving DecidableEq, Repr

/-- What a command, an access or a step answers. -/
abbrev Result := Host.Outcome State Fault Refusal

/-- The empty packet: "header zeroed, no payload, checksum 0" (42_packet_codec.md R130, 10_state.md R44). -/
def Packet.empty : Packet where
  header := { count := 0#16, drive := false, status := false, sleep := false, ack := false, pad := 0#4, length := 0#8 }
  payload := []
  checksum := 0#8

/-- The state after reset (10_state.md R44, 70_reset_and_hazards.md R260): every register 0, STATUS OK, both buffers unspecified,
the empty packet. No host event is pending (R262); the model's own fields start empty and at 0 (log entries 1, 2 and 3). -/
def State.reset : State where
  cmd := 0#32
  arg := Vector.replicate 8 0#32
  res := Vector.replicate 8 0#32
  status := .ok
  inLen := 0#32
  outLen := 0#32
  inBuf := []
  outBuf := []
  pkt := Packet.empty
  pending := []
  received := []
  draws := 0

end Sys2Proof.Machine
end

