-- ==== Sys2Proof/Machine/Ops.lean ====
section
/-! DEFINITION. The shared operations over the buffers and the registers, and the two ways a command ends: `finish`, and
`raise`, which is all that an exception is on this hardware (60_exceptions.md R236, R239). -/

namespace Sys2Proof.Machine

/-! ### Byte memories -/

/-- The known value of byte `j`, or none where the byte is unspecified (20_memory.md R57). -/
def Memory.read? (m : Memory) (j : Nat) : Option Byte :=
  match m with
  | [] => none
  | (k, b) :: rest => if k = j then some b else Memory.read? rest j

/-- Byte `j` becomes `b`; the indices stay strictly rising. -/
def Memory.write (m : Memory) (j : Nat) (b : Byte) : Memory :=
  match m with
  | [] => [(j, b)]
  | (k, c) :: rest =>
    if j < k then (j, b) :: (k, c) :: rest
    else if j = k then (j, b) :: rest
    else (k, c) :: Memory.write rest j b

/-- The bytes `s` at indices `base`, `base + 1`, ... -/
def Memory.ofBytesFrom (base : Nat) (s : List Byte) : Memory :=
  match s with
  | [] => []
  | b :: rest => (base, b) :: Memory.ofBytesFrom (base + 1) rest

/-- The canonical form: indices strictly rising, from `low` on and below `size`. -/
def Memory.risingFrom (low size : Nat) (m : Memory) : Bool :=
  match m with
  | [] => true
  | (k, _) :: rest => decide (low ≤ k) && decide (k < size) && Memory.risingFrom (k + 1) size rest

/-- The canonical form of a byte memory of `size` bytes: indices strictly rising and inside it. -/
def Memory.wf (size : Nat) (m : Memory) : Bool := Memory.risingFrom 0 size m

/-! ### How a command ends -/

/-- STATUS gets a completion code; nothing else changes. -/
def State.setStatus (s : State) (c : Completion) : State := { s with status := c }

/-- The end of a command that succeeds: STATUS <- OK (00_scope.md R12 `return`, 60_exceptions.md R230). -/
def finish (s : State) : Result := .next (s.setStatus .ok)

/-- Taking an exception: the command ends with error `c`, STATUS gets its code, and nothing else changes (00_scope.md R12
`raise`, 60_exceptions.md R236). No state is saved and control goes nowhere (R239), so there is no return from it (R240). -/
def raise (c : Completion) (s : State) : Result := .next (s.setStatus c)

/-! ### The registers a command or the host writes -/

/-- The host's write of a word to CMD (10_state.md R20). -/
def State.setCmd (s : State) (w : Word) : State := { s with cmd := w }

/-- RES0, RES1, ... get the words of `vs` in order; every later RES register keeps its value (10_state.md R22). -/
def State.setResults (s : State) (vs : List Word) : State :=
  { s with res := Vector.ofFn fun i => (vs[i.val]?).getD s.res[i] }

/-- The packet context is replaced. -/
def State.setPacket (s : State) (p : Packet) : State := { s with pkt := p }

/-- The host's write of operand register `i` (10_state.md R21). -/
def State.setArg (s : State) (i : Fin 8) (v : Word) : State := { s with arg := s.arg.set i v }

/-- The host's write of IN_LEN (10_state.md R24). -/
def State.setInLen (s : State) (v : Word) : State := { s with inLen := v }

/-- The host's write of byte `j` of IN_BUF (20_memory.md R51). -/
def State.setInByte (s : State) (j : Nat) (b : Byte) : State := { s with inBuf := s.inBuf.write j b }

/-! ### The buffers, as commands and the host see them -/

/-- The value `IN[j]` has for one command, or for one host read: the byte the host wrote, or the draw of this moment
(20_memory.md R57 a, R70). -/
def State.inByte (s : State) (j : Nat) : Byte := (s.inBuf.read? j).getD (Config.drawByte s.draws j)

/-- `IN[lo..hi)` (00_scope.md R11, 20_memory.md R70). -/
def State.inSlice (s : State) (lo hi : Nat) : List Byte := (List.range' lo (hi - lo)).map s.inByte

/-- `IN[0..IN_LEN)`, the byte sequence a command takes as its input (10_state.md R24). -/
def State.input (s : State) : List Byte := s.inSlice 0 s.inLen.toNat

/-- The known value of `OUT_BUF[j]`: none at an index >= OUT_LEN, whatever was written there (20_memory.md R57 b). -/
def State.outByte? (s : State) (j : Nat) : Option Byte := if j < s.outLen.toNat then s.outBuf.read? j else none

/-- The next unspecified byte is a draw of its own (20_memory.md R57: "Each read is a separate draw"). Log entry 3. -/
def State.nextDraw (s : State) : State := { s with draws := s.draws + 1 }

/-- `EmitOut(bytes)` (20_memory.md R71): the whole of OUT_BUF is replaced and OUT_LEN is set. -/
def State.emitOut (s : State) (bytes : List Byte) : State :=
  { s with outBuf := Memory.ofBytesFrom 0 bytes, outLen := BitVec.ofNat 32 bytes.length }

end Sys2Proof.Machine
end

