-- ==== Sys2Proof/Machine/Operands.lean ====
section
/-! DEFINITION. The operand forms (30_encoding.md R94, R95) and the assembly of results (R96), with the big-endian
primitives of 00_scope.md R12. -/

namespace Sys2Proof.Machine

/-- A numeric operand of width `w`: `ARG[i][w-1:0]`, the upper bits ignored (30_encoding.md R95). -/
def State.argField (s : State) (i : Fin 8) (w : Nat) : BitVec w := s.arg[i].setWidth w

/-- A 1-bit operand: `ARG[i][0]` (30_encoding.md R95). -/
def State.argFlag (s : State) (i : Fin 8) : Bool := s.arg[i].getLsbD 0

/-- An operand compared in full: all 32 bits of `ARG[i]` (30_encoding.md R95, R97). -/
def State.argFull (s : State) (i : Fin 8) : Nat := s.arg[i].toNat

/-- `be16(hi, lo)` (00_scope.md R12, 20_memory.md R61). -/
def be16 (hi lo : Byte) : Half := hi ++ lo

/-- `split16(v) = [v[15:8], v[7:0]]` (00_scope.md R12). -/
def split16 (v : Half) : List Byte := [v.extractLsb' 8 8, v.extractLsb' 0 8]

/-- A result narrower than 32 bits, zero-extended (30_encoding.md R96). -/
def zext32 {w : Nat} (v : BitVec w) : Word := v.setWidth 32

/-- A boolean result: 1 for true, 0 for false (30_encoding.md R96). -/
def boolWord (b : Bool) : Word := if b then 1#32 else 0#32

end Sys2Proof.Machine
end

