-- ==== Sys2Proof/Machine/Flags.lean ====
section
/-! DEFINITION. The flag-like state (10_state.md R41): the completion code's number, the three tag bits, and the telemetry
condition computed from them (R38). -/

namespace Sys2Proof.Machine

/-- The number of a completion code (60_exceptions.md R231). -/
def Completion.code (c : Completion) : Byte :=
  match c with
  | .ok => 0#8
  | .malformedHeader => 1#8
  | .truncatedPacket => 2#8
  | .invalidLength => 3#8
  | .invalidPayloadSize => 4#8
  | .payloadTooLarge => 5#8
  | .invalidOperand => 6#8
  | .illegalCommand => 7#8
  | .noTelemetry => 8#8

/-- STATUS as the host reads it: the code in [7:0], and [31:8] read 0 (10_state.md R23). -/
def State.statusWord (s : State) : Word := zext32 s.status.code

/-- The header with exactly the bit of tag code `t` set and the other two clear (30_encoding.md R97, 42_packet_codec.md R136). -/
def Header.withTag (h : Header) (t : Nat) : Header :=
  { h with drive := t == 0, status := t == 1, sleep := t == 2 }

/-- The tag code GET_COMMAND reports: Drive is tested first, then Sleep, else Response; the Status bit is never read
(42_packet_codec.md R146). -/
def Header.tagCode (h : Header) : Word :=
  if h.drive then 0#32 else if h.sleep then 2#32 else 1#32

/-- `HasTelemetry(P)`: Status is set and the payload has exactly 9 bytes (10_state.md R38). -/
def Packet.hasTelemetry (p : Packet) : Bool := p.header.status && p.payload.length == 9

end Sys2Proof.Machine
end

