-- ==== Sys2Proof/Machine/Bus.lean ====
section
/-! DEFINITION. The register window (20_memory.md R50 to R58): where an access lands, which accesses are refused, what a read
returns and what a write does; the reset input (70_reset_and_hazards.md R260); and fetching the next host event. -/

namespace Sys2Proof.Machine

/-- A place of the register map (20_memory.md R53). -/
inductive Location where
  | cmd
  | status
  | inLen
  | outLen
  /-- ARG`i` at 0x020 + 4i. -/
  | arg (i : Fin 8)
  /-- RES`i` at 0x040 + 4i. -/
  | res (i : Fin 8)
  /-- IN_BUF[`j`] at 0x100 + j. -/
  | inBuf (j : Nat)
  /-- OUT_BUF[`j`] at 0x200 + j. -/
  | outBuf (j : Nat)
deriving DecidableEq, Repr

/-- The reserved offsets of the window (20_memory.md R53, R56). -/
def reservedOffset (offset : Nat) : Bool :=
  (0x010 ≤ offset && offset ≤ 0x01F) || (0x060 ≤ offset && offset ≤ 0x0FF) || (0x300 ≤ offset && offset ≤ 0x3FF)

/-- The register whose first address is `offset`, a multiple of 4 below 0x060 that is not reserved (20_memory.md R53). -/
def registerAt (offset : Nat) : Location :=
  if offset = 0x000 then .cmd
  else if offset = 0x004 then .status
  else if offset = 0x008 then .inLen
  else if offset = 0x00C then .outLen
  else if offset < 0x040 then .arg (Fin.ofNat 8 ((offset - 0x020) / 4))
  else .res (Fin.ofNat 8 ((offset - 0x040) / 4))

/-- Where an access of `width` bytes at `offset` lands, or why it is refused (20_memory.md R54, R56). A register takes 4-byte
accesses at multiples of 4 and a buffer takes 1-byte accesses. Log entry 6 says which reason is named where several hold. -/
def locate (offset width : Nat) : Except Fault Location :=
  if Config.windowSize ≤ offset then .error .outsideWindow
  else if reservedOffset offset then .error .reservedOffset
  else if offset < 0x060 then
    if width ≠ 4 then .error .wrongWidth
    else if offset % 4 ≠ 0 then .error .misaligned
    else .ok (registerAt offset)
  else if width ≠ 1 then .error .wrongWidth
  else if offset < 0x200 then .ok (.inBuf (offset - 0x100))
  else .ok (.outBuf (offset - 0x200))

/-- The host receives a word from a read (log entry 2). -/
def State.receive (s : State) (v : Word) : State := { s with received := s.received ++ [v] }

/-- The host's next event has been issued: the rest of its program remains. -/
def State.setPending (s : State) (events : List HostEvent) : State := { s with pending := events }

/-- The host receives a buffer byte: its known value, or a draw of its own (20_memory.md R57). -/
def State.receiveByte (s : State) (known : Option Byte) (j : Nat) : State :=
  match known with
  | some b => s.receive (zext32 b)
  | none => s.nextDraw.receive (zext32 (Config.drawByte s.draws j))

/-- A host read (20_memory.md R53, R57, R58): it changes no block state. -/
def hostRead (loc : Location) (s : State) : State :=
  match loc with
  | .cmd => s.receive s.cmd
  | .status => s.receive s.statusWord
  | .inLen => s.receive s.inLen
  | .outLen => s.receive s.outLen
  | .arg i => s.receive s.arg[i]
  | .res i => s.receive s.res[i]
  | .inBuf j => s.receiveByte (s.inBuf.read? j) j
  | .outBuf j => s.receiveByte (s.outByte? j) j

/-- A host write to CMD executes one command (10_state.md R20, 30_encoding.md R81): CMD holds the word, and a word that selects
no command raises ILLEGAL_COMMAND. `run` gives a command its meaning. -/
def issueCommand (run : Instr → State → Result) (w : Word) (s : State) : Result :=
  match decode w with
  | .ok i => run i (s.setCmd w)
  | .error _ => raise .illegalCommand (s.setCmd w)

/-- A host write (20_memory.md R53, R55, R58; 10_state.md R21 to R25): CMD executes, IN_LEN takes at most IN_BUF_SIZE, and writes
to STATUS, OUT_LEN, RES and OUT_BUF are ignored. -/
def hostWrite (run : Instr → State → Result) (loc : Location) (v : Word) (s : State) : Result :=
  match loc with
  | .cmd => issueCommand run v s
  | .status => .next s
  | .inLen => if Config.inBufSize < v.toNat then .fault .inLenTooLarge else .next (s.setInLen v)
  | .outLen => .next s
  | .arg i => .next (s.setArg i v)
  | .res _ => .next s
  | .inBuf j => .next (s.setInByte j (v.setWidth 8))
  | .outBuf _ => .next s

/-- The end of a reset pulse (70_reset_and_hazards.md R260, R263): every state element of the block takes its reset value and no
command runs. What the host has received and has still to issue, and the index of the next free value, are not the
block's state and stay. Log entry 9. -/
def State.pulseReset (s : State) : State :=
  { State.reset with pending := s.pending, received := s.received, draws := s.draws }

/-- One host event (20_memory.md R59, R60): an admitted access takes all of its effects at once; a refused access is stuck. -/
def perform (run : Instr → State → Result) (ev : HostEvent) (s : State) : Result :=
  match ev with
  | .reset => .next s.pulseReset
  | .read offset width =>
    match locate offset width with
    | .ok loc => .next (hostRead loc s)
    | .error f => .fault f
  | .write offset width v =>
    match locate offset width with
    | .ok loc => hostWrite run loc v s
    | .error f => .fault f

/-- One step: the host's next event is performed; with none pending the block waits (70_reset_and_hazards.md R262). -/
def nextEvent (run : Instr → State → Result) (s : State) : Result :=
  match s.pending with
  | [] => .next s
  | ev :: rest => perform run ev (s.setPending rest)

/-- `MemWrite(0x000, 4, w)`: the host's write of a command word. -/
def cmdWrite (w : Word) : HostEvent := .write 0x000 4 w

/-- The host's very next event is the write of `w` to CMD, ahead of whatever it has still to issue. -/
def State.queueCommand (s : State) (w : Word) : State := s.setPending (cmdWrite w :: s.pending)

end Sys2Proof.Machine
end

