-- ==== Sys2Proof/Machine/Checksum.lean ====
section
/-! DEFINITION. The checksum engine (43_checksum.md): the set-bit count modulo 256, CK_COMPUTE and CK_VERIFY. -/

namespace Sys2Proof.Machine

/-- `popcount8(b)`: the number of 1 bits of a byte (43_checksum.md R190). -/
def popcount8 (b : Byte) : Nat :=
  (b.getLsbD 7).toNat + (b.getLsbD 6).toNat + (b.getLsbD 5).toNat + (b.getLsbD 4).toNat + (b.getLsbD 3).toNat +
    (b.getLsbD 2).toNat + (b.getLsbD 1).toNat + (b.getLsbD 0).toNat

/-- `Checksum8(s)`: the set bits of all bytes of `s`, modulo 256 (43_checksum.md R190). -/
def checksum8 (s : List Byte) : Byte := BitVec.ofNat 8 (s.map popcount8).sum

/-- CK_COMPUTE (43_checksum.md R192): the checksum of `IN[0..IN_LEN)`. -/
def execCkCompute (s : State) : Result := finish (s.nextDraw.setResults [zext32 (checksum8 s.input)])

/-- CK_VERIFY (43_checksum.md R194): ARG0 is compared in full with IN_LEN; a mismatch is a result, not an error (60_exceptions.md
R232). -/
def execCkVerify (s : State) : Result :=
  let off := s.argFull 0
  if s.inLen.toNat ≤ off then raise .truncatedPacket s
  else
    let c := checksum8 (s.inSlice 0 off)
    finish (s.nextDraw.setResults [boolWord (c == s.inByte off), zext32 c])

end Sys2Proof.Machine
end

