-- ==== Sys2Proof/Machine/HeaderCodec.lean ====
section
/-! DEFINITION. The header codec (41_header_codec.md): the two pure functions, and HDR_DECODE and HDR_ENCODE, which never touch
the packet context (R115). -/

namespace Sys2Proof.Machine

/-- `DecodeHeader(b0, b1, b2, b3)`: total, every bit pattern decodes (41_header_codec.md R110). -/
def decodeHeader (b0 b1 b2 b3 : Byte) : Header where
  count := be16 b0 b1
  drive := b2.getLsbD 7
  status := b2.getLsbD 6
  sleep := b2.getLsbD 5
  ack := b2.getLsbD 4
  pad := b2.extractLsb' 0 4
  length := b3

/-- The flags byte: Drive, Status, Sleep, Ack and Padding from bit 7 down (30_encoding.md R88). -/
def flagsByte (h : Header) : Byte :=
  BitVec.ofBool h.drive ++ BitVec.ofBool h.status ++ BitVec.ofBool h.sleep ++ BitVec.ofBool h.ack ++ h.pad

/-- `EncodeHeader(h)`: the inverse packing, four bytes (41_header_codec.md R111). -/
def encodeHeader (h : Header) : List Byte := split16 h.count ++ [flagsByte h, h.length]

/-- HDR_DECODE (41_header_codec.md R114): fewer than 4 valid bytes is MALFORMED_HEADER; else the seven fields of `IN[0..4)` go to
RES0 to RES6. -/
def execHdrDecode (s : State) : Result :=
  if s.inLen.toNat < 4 then raise .malformedHeader s
  else
    let h := decodeHeader (s.inByte 0) (s.inByte 1) (s.inByte 2) (s.inByte 3)
    finish (s.nextDraw.setResults
      [zext32 h.count, boolWord h.drive, boolWord h.status, boolWord h.sleep, boolWord h.ack, zext32 h.pad, zext32 h.length])

/-- HDR_ENCODE (41_header_codec.md R116): ARG0 to ARG6, each truncated to its field, packed into OUT_BUF. -/
def execHdrEncode (s : State) : Result :=
  finish (s.emitOut (encodeHeader
    { count := s.argField 0 16, drive := s.argFlag 1, status := s.argFlag 2, sleep := s.argFlag 3, ack := s.argFlag 4,
      pad := s.argField 5 4, length := s.argField 6 8 }))

end Sys2Proof.Machine
end

