-- ==== Sys2Proof/Machine/Payload.lean ====
section
/-! DEFINITION. The payload interpreters (44_payload_interpreters.md): the drive body and the telemetry record, with their four
commands. None of them reads or writes the packet context. -/

namespace Sys2Proof.Machine

/-- The drive body (30_encoding.md R91). -/
structure DriveBody where
  /-- Direction: Forward=1, Backward=2, Right=3, Left=4; not validated (44_payload_interpreters.md R211). -/
  direction : Byte
  /-- Duration in seconds. -/
  duration : Byte
  /-- Speed; not validated (R211). -/
  speed : Byte
deriving DecidableEq, Repr

/-- The telemetry record (30_encoding.md R92). -/
structure Telemetry where
  /-- LastPacketCounter, bytes 0 and 1. -/
  lastPacketCounter : Half
  /-- CurrentGrade, bytes 2 and 3. -/
  currentGrade : Half
  /-- HitCount, bytes 4 and 5. -/
  hitCount : Half
  /-- LastCommand, byte 6. -/
  lastCommand : Byte
  /-- LastCommandValue, byte 7. -/
  lastCommandValue : Byte
  /-- LastCommandSpeed, byte 8. -/
  lastCommandSpeed : Byte
deriving DecidableEq, Repr

/-- `DriveFields([b0, b1, b2])` (44_payload_interpreters.md R210). -/
def driveFields (b0 b1 b2 : Byte) : DriveBody := { direction := b0, duration := b1, speed := b2 }

/-- `DriveBytes` (44_payload_interpreters.md R210). -/
def driveBytes (d : DriveBody) : List Byte := [d.direction, d.duration, d.speed]

/-- `TelemetryFields([s0..s8])` (44_payload_interpreters.md R214). -/
def telemetryFields (s0 s1 s2 s3 s4 s5 s6 s7 s8 : Byte) : Telemetry where
  lastPacketCounter := be16 s0 s1
  currentGrade := be16 s2 s3
  hitCount := be16 s4 s5
  lastCommand := s6
  lastCommandValue := s7
  lastCommandSpeed := s8

/-- `TelemetryBytes` (44_payload_interpreters.md R215): 9 bytes. -/
def telemetryBytes (t : Telemetry) : List Byte :=
  split16 t.lastPacketCounter ++ split16 t.currentGrade ++ split16 t.hitCount ++
    [t.lastCommand, t.lastCommandValue, t.lastCommandSpeed]

/-- The six result words of a telemetry record, in the order of 30_encoding.md R92. -/
def telemetryResults (t : Telemetry) : List Word :=
  [zext32 t.lastPacketCounter, zext32 t.currentGrade, zext32 t.hitCount, zext32 t.lastCommand, zext32 t.lastCommandValue,
    zext32 t.lastCommandSpeed]

/-- The telemetry operands ARG0 to ARG5, each truncated to its field (42_packet_codec.md R152, 44_payload_interpreters.md R217). -/
def State.telemetryArgs (s : State) : Telemetry where
  lastPacketCounter := s.argField 0 16
  currentGrade := s.argField 1 16
  hitCount := s.argField 2 16
  lastCommand := s.argField 3 8
  lastCommandValue := s.argField 4 8
  lastCommandSpeed := s.argField 5 8

/-- The telemetry record of a packet, decoded from its current payload where HasTelemetry holds (10_state.md R38,
42_packet_codec.md R155). -/
def Packet.telemetry? (p : Packet) : Option Telemetry :=
  match p.hasTelemetry, p.payload with
  | true, [s0, s1, s2, s3, s4, s5, s6, s7, s8] => some (telemetryFields s0 s1 s2 s3 s4 s5 s6 s7 s8)
  | _, _ => none

/-- DRIVE_DECODE (44_payload_interpreters.md R212): IN_LEN must be 3. -/
def execDriveDecode (s : State) : Result :=
  if s.inLen.toNat ≠ 3 then raise .invalidPayloadSize s
  else
    let d := driveFields (s.inByte 0) (s.inByte 1) (s.inByte 2)
    finish (s.nextDraw.setResults [zext32 d.direction, zext32 d.duration, zext32 d.speed])

/-- DRIVE_ENCODE (44_payload_interpreters.md R213): ARG0 to ARG2, each truncated to 8 bits. -/
def execDriveEncode (s : State) : Result :=
  finish (s.emitOut (driveBytes
    { direction := s.argField 0 8, duration := s.argField 1 8, speed := s.argField 2 8 }))

/-- TELEM_DECODE (44_payload_interpreters.md R216): IN_LEN must be 9. -/
def execTelemDecode (s : State) : Result :=
  if s.inLen.toNat ≠ 9 then raise .invalidPayloadSize s
  else
    finish (s.nextDraw.setResults (telemetryResults
      (telemetryFields (s.inByte 0) (s.inByte 1) (s.inByte 2) (s.inByte 3) (s.inByte 4) (s.inByte 5) (s.inByte 6)
        (s.inByte 7) (s.inByte 8))))

/-- TELEM_ENCODE (44_payload_interpreters.md R217): ARG0 to ARG5, each truncated to its field. -/
def execTelemEncode (s : State) : Result := finish (s.emitOut (telemetryBytes s.telemetryArgs))

end Sys2Proof.Machine
end

