-- ==== Sys2Proof/Machine/PacketCodec.lean ====
section
/-! DEFINITION. The packet codec (42_packet_codec.md): creation, parsing, mutators, accessors, telemetry and serialization.
Every check comes before the first write (60_exceptions.md R236). -/

namespace Sys2Proof.Machine

/-! ### Creation and parsing -/

/-- NEW (42_packet_codec.md R130). -/
def execNew (s : State) : Result := finish (s.setPacket Packet.empty)

/-- PARSE (42_packet_codec.md R132): the checks in the order of 60_exceptions.md R234; the checksum byte is stored, not verified, and
bytes at index >= Length are not read (R134). -/
def execParse (s : State) : Result :=
  if s.inLen.toNat < 4 then raise .malformedHeader s
  else
    let h := decodeHeader (s.inByte 0) (s.inByte 1) (s.inByte 2) (s.inByte 3)
    let len := h.length.toNat
    if len < 5 then raise .invalidLength s.nextDraw
    else if s.inLen.toNat < len then raise .truncatedPacket s.nextDraw
    else
      finish (s.nextDraw.setPacket
        { header := h, payload := s.inSlice 4 (len - 1), checksum := s.inByte (len - 1) })

/-! ### Mutators -/

/-- SET_COMMAND (42_packet_codec.md R136): the tag code ARG0 is compared in full. -/
def execSetCommand (s : State) : Result :=
  let t := s.argFull 0
  if 2 < t then raise .invalidOperand s
  else finish (s.setPacket { s.pkt with header := s.pkt.header.withTag t })

/-- The packet with a new payload and with Length recomputed as `4 + n + 1` (42_packet_codec.md R140, R152). -/
def Packet.withPayload (p : Packet) (bytes : List Byte) : Packet :=
  { p with header := { p.header with length := BitVec.ofNat 8 (bytes.length + 5) }, payload := bytes }

/-- SET_PAYLOAD (42_packet_codec.md R140, R141). -/
def execSetPayload (s : State) : Result :=
  if Config.payloadCap < s.inLen.toNat then raise .payloadTooLarge s
  else finish (s.nextDraw.setPacket (s.pkt.withPayload s.input))

/-- SET_PACKET_COUNT (42_packet_codec.md R144): ARG0 modulo 2^16. -/
def execSetPacketCount (s : State) : Result :=
  finish (s.setPacket { s.pkt with header := { s.pkt.header with count := s.argField 0 16 } })

/-- SET_TELEMETRY (42_packet_codec.md R152): the Status tag, a 9-byte record and Length 14. -/
def execSetTelemetry (s : State) : Result :=
  finish (s.setPacket
    (Packet.withPayload { s.pkt with header := s.pkt.header.withTag 1 } (telemetryBytes s.telemetryArgs)))

/-! ### Accessors -/

/-- GET_COMMAND (42_packet_codec.md R146). -/
def execGetCommand (s : State) : Result := finish (s.setResults [s.pkt.header.tagCode])

/-- GET_ACK (42_packet_codec.md R147). -/
def execGetAck (s : State) : Result := finish (s.setResults [boolWord s.pkt.header.ack])

/-- GET_LENGTH (42_packet_codec.md R148). -/
def execGetLength (s : State) : Result := finish (s.setResults [zext32 s.pkt.header.length])

/-- GET_PAYLOAD (42_packet_codec.md R149). -/
def execGetPayload (s : State) : Result := finish (s.emitOut s.pkt.payload)

/-- GET_PACKET_COUNT (42_packet_codec.md R150). -/
def execGetPacketCount (s : State) : Result := finish (s.setResults [zext32 s.pkt.header.count])

/-- HAS_TELEMETRY (42_packet_codec.md R154). -/
def execHasTelemetry (s : State) : Result := finish (s.setResults [boolWord s.pkt.hasTelemetry])

/-- GET_TELEMETRY (42_packet_codec.md R155): NO_TELEMETRY where HasTelemetry is false. -/
def execGetTelemetry (s : State) : Result :=
  match s.pkt.telemetry? with
  | some t => finish (s.setResults (telemetryResults t))
  | none => raise .noTelemetry s

/-- GET_CHECKSUM (42_packet_codec.md R156). -/
def execGetChecksum (s : State) : Result := finish (s.setResults [zext32 s.pkt.checksum])

/-! ### Serialization -/

/-- The bytes of a wire packet before its checksum byte: the encoded header, then the payload (30_encoding.md R85). -/
def Packet.body (p : Packet) : List Byte := encodeHeader p.header ++ p.payload

/-- The wire packet: the body and the checksum over it (30_encoding.md R85, 43_checksum.md R191). -/
def Packet.wire (p : Packet) : List Byte := p.body ++ [checksum8 p.body]

/-- SERIALIZE (42_packet_codec.md R160, R161). In a state no run reaches, where the payload has not Length - 5 bytes, it still
emits the header, the payload and their checksum (log entry 10). -/
def execSerialize (s : State) : Result :=
  if s.pkt.header.length.toNat < 5 then raise .invalidLength s
  else finish ((s.setPacket { s.pkt with checksum := checksum8 s.pkt.body }).emitOut s.pkt.wire)

end Sys2Proof.Machine
end

