-- ==== Sys2Proof/Machine/Dispatch.lean ====
section
/-! DEFINITION. One arm per command: the command's meaning (30_encoding.md R82). -/

namespace Sys2Proof.Machine

def exec (i : Instr) (s : State) : Host.Outcome State Fault Refusal :=
  match i with
  | .new => Sys2Proof.Machine.execNew s
  | .parse => Sys2Proof.Machine.execParse s
  | .serialize => Sys2Proof.Machine.execSerialize s
  | .setCommand => Sys2Proof.Machine.execSetCommand s
  | .setPayload => Sys2Proof.Machine.execSetPayload s
  | .setPacketCount => Sys2Proof.Machine.execSetPacketCount s
  | .setTelemetry => Sys2Proof.Machine.execSetTelemetry s
  | .getCommand => Sys2Proof.Machine.execGetCommand s
  | .getAck => Sys2Proof.Machine.execGetAck s
  | .getLength => Sys2Proof.Machine.execGetLength s
  | .getPayload => Sys2Proof.Machine.execGetPayload s
  | .getPacketCount => Sys2Proof.Machine.execGetPacketCount s
  | .hasTelemetry => Sys2Proof.Machine.execHasTelemetry s
  | .getTelemetry => Sys2Proof.Machine.execGetTelemetry s
  | .getChecksum => Sys2Proof.Machine.execGetChecksum s
  | .hdrDecode => Sys2Proof.Machine.execHdrDecode s
  | .hdrEncode => Sys2Proof.Machine.execHdrEncode s
  | .ckCompute => Sys2Proof.Machine.execCkCompute s
  | .ckVerify => Sys2Proof.Machine.execCkVerify s
  | .driveDecode => Sys2Proof.Machine.execDriveDecode s
  | .driveEncode => Sys2Proof.Machine.execDriveEncode s
  | .telemDecode => Sys2Proof.Machine.execTelemDecode s
  | .telemEncode => Sys2Proof.Machine.execTelemEncode s

end Sys2Proof.Machine
end

