-- ==== Sys2Proof/Machine/Step.lean ====
section
/-! DEFINITION. One step of the block: the host's next event (10_state.md R27, 20_memory.md R60). -/

namespace Sys2Proof.Machine

/-- One step: the next host event is performed, and a write to CMD runs its command by `exec`. -/
def step (s : State) : Host.Outcome State Fault Refusal := nextEvent exec s

/-- `s` with the host's next event being the write of the word `w` (of `nbits` bits) to CMD, so that the very next step runs
that command. This stands for loading a host program from outside: log entry 1. -/
def State.withFetchWord (s : State) (nbits w : Nat) : State := s.queueCommand (BitVec.ofNat 32 (w % 2 ^ nbits))

end Sys2Proof.Machine
end

