-- ==== Sys2Proof/Machine/Assembler.lean ====
section
/-! DEFINITION. The assembler notation (30_encoding.md R99, R100) as host events at block-relative addresses, and the placement of
the window on the platform's bus (20_memory.md R69). Notation only: it has no effect on behaviour (92_eei_decisions.md D27). -/

namespace Sys2Proof.Machine

/-- A named constant of the assembler (30_encoding.md R99). -/
inductive Symbol where
  | drive
  | response
  | status
  | sleep
  | forward
  | backward
  | right
  | left
deriving DecidableEq, Repr

/-- The number a named constant stands for: tag codes 0, 1, 1, 2 and directions 1 to 4 (30_encoding.md R99). -/
def Symbol.value (y : Symbol) : Word :=
  match y with
  | .drive => 0#32
  | .response => 1#32
  | .status => 1#32
  | .sleep => 2#32
  | .forward => 1#32
  | .backward => 2#32
  | .right => 3#32
  | .left => 4#32

/-- `MemWrite(0x020 + 4*k, 4, a)` for each operand `a`, from operand register `k` on. -/
def argWritesFrom (k : Nat) (ops : List Word) : List HostEvent :=
  match ops with
  | [] => []
  | a :: rest => .write (0x020 + 4 * k) 4 a :: argWritesFrom (k + 1) rest

/-- `MNEMONIC a0, ..., ak`: the ARG writes in order, then the CMD write (30_encoding.md R99). -/
def assemble (i : Instr) (ops : List Word) : List HostEvent := argWritesFrom 0 ops ++ [cmdWrite (encode i)]

/-- `in.len n` (30_encoding.md R100). -/
def asmInLen (n : Word) : List HostEvent := [.write 0x008 4 n]

/-- `MemWrite(0x100 + k, 1, b)` for each byte, from index `k` on. -/
def inByteWritesFrom (k : Nat) (bytes : List Byte) : List HostEvent :=
  match bytes with
  | [] => []
  | b :: rest => .write (0x100 + k) 1 (zext32 b) :: inByteWritesFrom (k + 1) rest

/-- `in.load b0, ..., b(k-1)`, also with no bytes (30_encoding.md R100). -/
def asmInLoad (bytes : List Byte) : List HostEvent :=
  inByteWritesFrom 0 bytes ++ asmInLen (BitVec.ofNat 32 bytes.length)

/-- `MemRead(0x200 + k + j, 1)` for `n` bytes, from index `k` on. -/
def outByteReadsFrom (k n : Nat) : List HostEvent :=
  match n with
  | 0 => []
  | n + 1 => .read (0x200 + k) 1 :: outByteReadsFrom (k + 1) n

/-- `out.fetch` (30_encoding.md R100), where `m` is the length the first read returns: the host knows it then. -/
def asmOutFetch (m : Nat) : List HostEvent := .read 0x00C 4 :: outByteReadsFrom 0 m

/-- `loopback` (30_encoding.md R100), where `bytes` is what the `out.fetch` yields. -/
def asmLoopback (bytes : List Byte) : List HostEvent := asmOutFetch bytes.length ++ asmInLoad bytes

/-- `status` (30_encoding.md R100). -/
def asmStatus : List HostEvent := [.read 0x004 4]

/-- `res i` (30_encoding.md R100). -/
def asmRes (i : Fin 8) : List HostEvent := [.read (0x040 + 4 * i.val) 4]

/-- `ck.verify.last`, where `n` is the IN_LEN the host holds, at least 1 (30_encoding.md R100, 43_checksum.md R195). -/
def asmCkVerifyLast (n : Word) : List HostEvent := assemble .ckVerify [n - 1#32]

/-- `set.count n`, an alias (30_encoding.md R100). -/
def asmSetCount (n : Word) : List HostEvent := assemble .setPacketCount [n]

/-- `set.telemetry a0..a5`, an alias (30_encoding.md R100). -/
def asmSetTelemetry (a0 a1 a2 a3 a4 a5 : Word) : List HostEvent := assemble .setTelemetry [a0, a1, a2, a3, a4, a5]

/-- The bus address of a block-relative offset: `PHC_BASE + offset` (20_memory.md R69). Log entry 4. -/
def busAddress (offset : Nat) : Nat := Config.phcBase + offset

/-- The block-relative offset of a bus address, where the address lies in this block's window (20_memory.md R50, R69). -/
def busOffset? (address : Nat) : Option Nat :=
  if Config.phcBase ≤ address ∧ address < Config.phcBase + Config.windowSize then some (address - Config.phcBase) else none

end Sys2Proof.Machine
end

