-- ==== Sys2Proof/Safety.lean ====
section
/-! DEFINITION. The terms claims are stated in: the invariants of reachable states, what a command keeps (10_state.md R40,
60_exceptions.md R236), and which commands may write what. -/

namespace Sys2Proof.Machine

/-- The Length invariant of a packet (10_state.md R36): empty after NEW or reset, else Length counts the payload. -/
def Packet.lengthOk (p : Packet) : Prop :=
  (p.header.length = 0#8 ∧ p.payload = []) ∨
    (p.header.length.toNat = p.payload.length + 5 ∧ 5 ≤ p.header.length.toNat ∧ p.header.length.toNat ≤ 255)

/-- OUT_BUF holds a known byte exactly at the indices below OUT_LEN (20_memory.md R71). -/
def State.outHoldsOutput (s : State) : Prop := ∀ j, (s.outBuf.read? j).isSome = true ↔ j < s.outLen.toNat

/-- What every reachable state satisfies: the buffers in canonical form inside their sizes, IN_LEN at most 256 (10_state.md R24),
OUT_LEN at most 255 (R25), OUT_BUF holding exactly the last output (R39), RES7 at its reset value (R40), and the Length
invariant (R36). -/
structure State.Inv (s : State) : Prop where
  inBuf_wf : s.inBuf.wf Config.inBufSize = true
  outBuf_wf : s.outBuf.wf Config.outBufSize = true
  inLen_le : s.inLen.toNat ≤ Config.inBufSize
  outLen_le : s.outLen.toNat ≤ 255
  out_held : s.outHoldsOutput
  res7_zero : s.res[7] = 0#32
  length_ok : s.pkt.lengthOk

/-- A command's inputs, which only the host writes, read as before (10_state.md R20, R21, R24, R26): CMD, ARG, IN_LEN and every byte
of IN_BUF. The host's own side is untouched too. -/
structure KeepsInputs (s t : State) : Prop where
  cmd : t.cmd = s.cmd
  arg : t.arg = s.arg
  inLen : t.inLen = s.inLen
  inBuf : ∀ j, t.inBuf.read? j = s.inBuf.read? j
  pending : t.pending = s.pending
  received : t.received = s.received

/-- OUT_LEN and every byte of OUT_BUF read as before. -/
structure KeepsOutput (s t : State) : Prop where
  outLen : t.outLen = s.outLen
  outBuf : ∀ j, t.outBuf.read? j = s.outBuf.read? j

/-- Every RES register from `k` on reads as before. -/
def KeepsResultsFrom (k : Nat) (s t : State) : Prop := ∀ i : Fin 8, k ≤ i.val → t.res[i] = s.res[i]

/-- The output is exactly `bytes`: OUT_LEN is their number, and every byte of OUT_BUF is the byte of that index or, beyond
them, unspecified (20_memory.md R57 b, R71). -/
def OutputIs (bytes : List Byte) (t : State) : Prop := t.outLen.toNat = bytes.length ∧ ∀ j, t.outByte? j = bytes[j]?

/-- The effect of a failing command (60_exceptions.md R236): STATUS gets the code and nothing else changes. (The index of the next
free value is the model's own and may advance: log entry 3.) -/
def OnlyStatus (c : Completion) (s t : State) : Prop := t = { s with status := c, draws := t.draws }

/-- A command that reports in RES0 to RES`k-1` keeps everything else but STATUS: its inputs, the packet, the output and the other
RES registers. -/
structure ReportsOnly (k : Nat) (s t : State) : Prop where
  ok : t.status = .ok
  inputs : KeepsInputs s t
  output : KeepsOutput s t
  pkt : t.pkt = s.pkt
  res : KeepsResultsFrom k s t

/-- A command that writes OUT_BUF only: its inputs, the packet and every RES register are kept. -/
structure EmitsOnly (bytes : List Byte) (s t : State) : Prop where
  ok : t.status = .ok
  inputs : KeepsInputs s t
  out : OutputIs bytes t
  pkt : t.pkt = s.pkt
  res : t.res = s.res

/-- A command that changes the packet only: its inputs, the output and every RES register are kept. -/
structure UpdatesPacketOnly (p : Packet) (s t : State) : Prop where
  ok : t.status = .ok
  inputs : KeepsInputs s t
  output : KeepsOutput s t
  pkt : t.pkt = p
  res : t.res = s.res

/-- The host has loaded `bytes` as the first bytes of IN_BUF, with IN_LEN covering at least them. -/
def InputStartsWith (bytes : List Byte) (s : State) : Prop :=
  bytes.length ≤ s.inLen.toNat ∧ ∀ j, j < bytes.length → s.inBuf.read? j = bytes[j]?

/-- The host has loaded exactly `bytes`: IN_LEN is their number. -/
def InputIs (bytes : List Byte) (s : State) : Prop :=
  s.inLen.toNat = bytes.length ∧ ∀ j, j < bytes.length → s.inBuf.read? j = bytes[j]?

end Sys2Proof.Machine

namespace Sys2Proof

/-- The commands that write OUT_BUF and OUT_LEN (10_state.md R40, 42_packet_codec.md R164). -/
def Instr.writesOutput (i : Instr) : Bool :=
  match i with
  | .serialize | .getPayload | .hdrEncode | .driveEncode | .telemEncode => true
  | .new | .parse | .setCommand | .setPayload | .setPacketCount | .setTelemetry | .getCommand | .getAck | .getLength
  | .getPacketCount | .hasTelemetry | .getTelemetry | .getChecksum | .hdrDecode | .ckCompute | .ckVerify | .driveDecode
  | .telemDecode => false

/-- How many RES registers, from RES0 on, a successful command writes (10_state.md R40, 30_encoding.md R94). -/
def Instr.resultCount (i : Instr) : Nat :=
  match i with
  | .getCommand | .getAck | .getLength | .getPacketCount | .hasTelemetry | .getChecksum | .ckCompute => 1
  | .ckVerify => 2
  | .driveDecode => 3
  | .getTelemetry | .telemDecode => 6
  | .hdrDecode => 7
  | .new | .parse | .serialize | .setCommand | .setPayload | .setPacketCount | .setTelemetry | .getPayload | .hdrEncode
  | .driveEncode | .telemEncode => 0

/-- How many low bits of `ARG[k]` a command uses: 0 where it does not read that register, all 32 where it compares the operand
in full (30_encoding.md R94, R95). -/
def Instr.operandWidth (i : Instr) (k : Nat) : Nat :=
  match i with
  | .setCommand | .ckVerify => if k = 0 then 32 else 0
  | .setPacketCount => if k = 0 then 16 else 0
  | .driveEncode => if k < 3 then 8 else 0
  | .setTelemetry | .telemEncode => if k < 3 then 16 else if k < 6 then 8 else 0
  | .hdrEncode => if k = 0 then 16 else if k < 5 then 1 else if k = 5 then 4 else if k = 6 then 8 else 0
  | .new | .parse | .serialize | .setPayload | .getCommand | .getAck | .getLength | .getPayload | .getPacketCount
  | .hasTelemetry | .getTelemetry | .getChecksum | .hdrDecode | .ckCompute | .driveDecode | .telemDecode => 0

/-- The commands of the header codec, the checksum engine and the payload interpreters, which do not see the packet context
(41_header_codec.md R115, 43_checksum.md R192, R194, 44_payload_interpreters.md). -/
def Instr.packetFree (i : Instr) : Bool :=
  match i with
  | .hdrDecode | .hdrEncode | .ckCompute | .ckVerify | .driveDecode | .driveEncode | .telemDecode | .telemEncode => true
  | .new | .parse | .serialize | .setCommand | .setPayload | .setPacketCount | .setTelemetry | .getCommand | .getAck
  | .getLength | .getPayload | .getPacketCount | .hasTelemetry | .getTelemetry | .getChecksum => false

/-- The mutators of the packet (42_packet_codec.md R162). -/
def Instr.mutatesPacket (i : Instr) : Bool :=
  match i with
  | .new | .parse | .setCommand | .setPayload | .setPacketCount | .setTelemetry => true
  | .serialize | .getCommand | .getAck | .getLength | .getPayload | .getPacketCount | .hasTelemetry | .getTelemetry
  | .getChecksum | .hdrDecode | .hdrEncode | .ckCompute | .ckVerify | .driveDecode | .driveEncode | .telemDecode
  | .telemEncode => false

/-- The error codes a command may raise (60_exceptions.md R231, R234). -/
def Instr.mayRaise (i : Instr) : List Machine.Completion :=
  match i with
  | .parse => [.malformedHeader, .invalidLength, .truncatedPacket]
  | .hdrDecode => [.malformedHeader]
  | .ckVerify => [.truncatedPacket]
  | .serialize => [.invalidLength]
  | .driveDecode | .telemDecode => [.invalidPayloadSize]
  | .setPayload => [.payloadTooLarge]
  | .setCommand => [.invalidOperand]
  | .getTelemetry => [.noTelemetry]
  | .new | .setPacketCount | .setTelemetry | .getCommand | .getAck | .getLength | .getPayload | .getPacketCount
  | .hasTelemetry | .getChecksum | .hdrEncode | .ckCompute | .driveEncode | .telemEncode => []

end Sys2Proof

namespace Sys2Proof.Machine

/-- A host event that mutates no packet: a read, a write of no command, or a command that is no mutator; not a reset pulse. -/
def HostEvent.keepsPacketFields (ev : HostEvent) : Bool :=
  match ev with
  | .read _ _ => true
  | .write 0 _ w =>
    match decode w with
    | .ok i => !i.mutatesPacket
    | .error _ => true
  | .write _ _ _ => true
  | .reset => false

/-- The packet fields that SERIALIZE reads (42_packet_codec.md R160): all but P.checksum. -/
def SamePacketFields (p q : Packet) : Prop := q.header = p.header ∧ q.payload = p.payload

end Sys2Proof.Machine
end

