-- ==== Sys2Proof/Certificates/Slice0/Obligations.lean ====
section
/-! DEFINITION. The statements for the provers. Each docstring says which rule of spec/ it formalises. -/

open Sys2Proof Sys2Proof.Machine

/-! ### Command words, decoding and the step -/

/-- Sanity: words written out from 30_encoding.md R80 and R82 (RSV = 0, OPC in [7:0]), some of each group, decode to their
commands. -/
def Obligations.TabledWordsDecode : Prop :=
  decode 0x00000001#32 = .ok .new ∧ decode 0x00000002#32 = .ok .parse ∧ decode 0x00000003#32 = .ok .serialize ∧
  decode 0x00000013#32 = .ok .setTelemetry ∧ decode 0x00000027#32 = .ok .getChecksum ∧
  decode 0x00000031#32 = .ok .hdrEncode ∧ decode 0x00000041#32 = .ok .ckVerify ∧ decode 0x00000050#32 = .ok .driveDecode

/-- Decode and encode agree (30_encoding.md R80 to R83): the encoding of every well-formed command decodes to it, and no second
word, of all 2^32, does. -/
def Obligations.DecodeAndEncodeAgree : Prop :=
  (∀ i : Instr, i.wellFormed = true → decode (encode i) = .ok i) ∧
  ∀ (w : Word) (i : Instr), decode w = .ok i → encode i = w

/-- A step runs the decoded command: when the host's next event is a write to CMD of a word that decodes to a well-formed
command, the step is `exec` of it at the state in which that event is issued and CMD holds the word (10_state.md R20). That the
events stand in a list of the state is the model's choice (log entry 1). -/
def Obligations.StepRunsDecodedCommand : Prop :=
  ∀ (s : State) (rest : List HostEvent) (w : Word) (i : Instr),
    s.pending = .write 0x000 4 w :: rest → decode w = .ok i → i.wellFormed = true →
    step s = exec i { s with pending := rest, cmd := w }

/-- 30_encoding.md R81 and R84: a word with a reserved bit set or a reserved opcode raises ILLEGAL_COMMAND and changes only STATUS,
and CMD; every other word selects exactly one command, which the step executes. That CMD takes an illegal word too, as the
host's own write, beside R81's "changes only STATUS", is the model's reading of 10_state.md R20 and 60_exceptions.md R233
(log entry 12, DEDUCED). That the events stand in a list of the state is the model's choice (log entry 1). -/
def Obligations.CommandWriteRunsOneCommandOrIsIllegal : Prop :=
  ∀ (s : State) (rest : List HostEvent) (w : Word), s.pending = .write 0x000 4 w :: rest →
    ((w.toNat / 256 ≠ 0 ∨ reservedOpcodeRange (w.toNat % 256) = true) →
      step s = .next { s with pending := rest, cmd := w, status := .illegalCommand }) ∧
    (w.toNat / 256 = 0 → reservedOpcodeRange (w.toNat % 256) = false →
      ∃ i, (∀ j, decode w = .ok j ↔ j = i) ∧ step s = exec i { s with pending := rest, cmd := w })

/-- With no host event pending the block waits: the step changes nothing (70_reset_and_hazards.md R262; log entry 1, the model's
choice of an idle step). -/
def Obligations.IdleStepWaits : Prop :=
  ∀ s : State, s.pending = [] → step s = .next s

/-! ### Reset and the invariants -/

/-- 10_state.md R44: the value of every piece of state after reset; no byte of either buffer has a known value. -/
def Obligations.ResetValues : Prop :=
  State.reset.cmd = 0#32 ∧ (∀ i : Fin 8, State.reset.arg[i] = 0#32) ∧ (∀ i : Fin 8, State.reset.res[i] = 0#32) ∧
  State.reset.status = .ok ∧ State.reset.statusWord = 0#32 ∧ State.reset.inLen = 0#32 ∧ State.reset.outLen = 0#32 ∧
  (∀ j, State.reset.inBuf.read? j = none) ∧ (∀ j, State.reset.outBuf.read? j = none) ∧
  State.reset.pkt.header.count = 0#16 ∧ State.reset.pkt.header.drive = false ∧ State.reset.pkt.header.status = false ∧
  State.reset.pkt.header.sleep = false ∧ State.reset.pkt.header.ack = false ∧ State.reset.pkt.header.pad = 0#4 ∧
  State.reset.pkt.header.length = 0#8 ∧ State.reset.pkt.payload = [] ∧ State.reset.pkt.checksum = 0#8

/-- Nothing survives a reset pulse, which leaves the packet as NEW does, while NEW leaves the interface registers and buffers
alone (70_reset_and_hazards.md R260, R261, R263). That a pulse is one host event, and keeps the host's own side and the index of
the next free value, is the model's choice (log entry 9). -/
def Obligations.ResetPulseLeavesResetState : Prop :=
  ∀ (s : State) (rest : List HostEvent), s.pending = .reset :: rest →
    step s = .next { State.reset with pending := rest, received := s.received, draws := s.draws } ∧
    exec .new s = .next { s with pkt := State.reset.pkt, status := .ok }

/-- The invariant of reachable states holds after reset. -/
def Obligations.ResetMeetsInvariant : Prop := State.reset.Inv

/-- Every step keeps the invariant: canonical buffers, IN_LEN at most 256 (10_state.md R24), OUT_LEN at most 255 (R25), OUT_BUF
holding exactly the last output (R39), RES7 at 0 (R40) and the Length invariant (R36). -/
def Obligations.StepKeepsInvariant : Prop :=
  ∀ s t : State, s.Inv → step s = .next t → t.Inv

/-- 10_state.md R36: in every state reachable from reset, whatever the host issues and whatever the free values are, either
P.length = 0 with an empty payload, or P.length = len(P.payload) + 5 with 5 <= P.length <= 255. A corollary over runs of
`StepKeepsInvariant` and `ResetMeetsInvariant`. That the host's events stand in a list of the state, and the index of the next
free value, are the model's choices (log entries 1 and 3). -/
def Obligations.ReachableLengthCountsPayload : Prop :=
  ∀ (events : List HostEvent) (d n : Nat) (t : State),
    Host.Core.run Sys2Proof.core n { State.reset with pending := events, draws := d } = .next t →
    (t.pkt.header.length = 0#8 ∧ t.pkt.payload.length = 0) ∨
      (t.pkt.header.length.toNat = t.pkt.payload.length + 5 ∧ 5 ≤ t.pkt.header.length.toNat ∧
        t.pkt.header.length.toNat ≤ 255)

/-! ### Rules over all commands -/

/-- Every command, from every state, completes with a next state: with OK, or with one of the codes its rule may raise
(60_exceptions.md R230, R231, R234, R242 d). No command faults, refuses or halts the block. -/
def Obligations.EveryCommandCompletes : Prop :=
  ∀ (i : Instr) (s : State), ∃ t, exec i s = .next t ∧ (t.status = .ok ∨ t.status ∈ i.mayRaise)

/-- 60_exceptions.md R236: a command that raises an error writes STATUS and changes nothing else. (The index of the next free
value is the model's own and may advance: log entry 3.) -/
def Obligations.FailingCommandChangesOnlyStatus : Prop :=
  ∀ (i : Instr) (s t : State), exec i s = .next t → t.status ≠ .ok →
    t = { s with status := t.status, draws := t.draws }

/-- 60_exceptions.md R237: STATUS is not sticky. What a command does, its own completion code included, does not depend on the code
STATUS held before. The two runs start at the same index of the next free value, so they share their free values: the model's
choice (log entry 3). -/
def Obligations.StatusIsNotSticky : Prop :=
  ∀ (i : Instr) (s : State) (c : Completion), exec i { s with status := c } = exec i s

/-- The frame of every command over the packet context, by the writer table of 10_state.md R40: a field that a command changes is
one the table gives it. P.ack and P.pad, for one, change only by NEW and PARSE (R31, R32), and P.count is never incremented
(60_exceptions.md R244). -/
def Obligations.OnlyTabledCommandsWritePacketFields : Prop :=
  ∀ (i : Instr) (s t : State), exec i s = .next t →
    (t.pkt.header.count ≠ s.pkt.header.count → i = .new ∨ i = .parse ∨ i = .setPacketCount) ∧
    (t.pkt.header.drive ≠ s.pkt.header.drive → i = .new ∨ i = .parse ∨ i = .setCommand ∨ i = .setTelemetry) ∧
    (t.pkt.header.status ≠ s.pkt.header.status → i = .new ∨ i = .parse ∨ i = .setCommand ∨ i = .setTelemetry) ∧
    (t.pkt.header.sleep ≠ s.pkt.header.sleep → i = .new ∨ i = .parse ∨ i = .setCommand ∨ i = .setTelemetry) ∧
    (t.pkt.header.ack ≠ s.pkt.header.ack → i = .new ∨ i = .parse) ∧
    (t.pkt.header.pad ≠ s.pkt.header.pad → i = .new ∨ i = .parse) ∧
    (t.pkt.header.length ≠ s.pkt.header.length → i = .new ∨ i = .parse ∨ i = .setPayload ∨ i = .setTelemetry) ∧
    (t.pkt.payload ≠ s.pkt.payload → i = .new ∨ i = .parse ∨ i = .setPayload ∨ i = .setTelemetry) ∧
    (t.pkt.checksum ≠ s.pkt.checksum → i = .new ∨ i = .parse ∨ i = .serialize)

/-- The frame of every command over the interface, by the writer table of 10_state.md R40: CMD, ARG, IN_LEN and every byte of
IN_BUF are kept; OUT_LEN and every byte of OUT_BUF are kept but by the five output commands; the RES registers from the
command's result count on are kept. -/
def Obligations.OnlyTabledCommandsWriteInterface : Prop :=
  ∀ (i : Instr) (s t : State), exec i s = .next t →
    KeepsInputs s t ∧ (i.writesOutput = false → KeepsOutput s t) ∧ KeepsResultsFrom i.resultCount s t

/-- 10_state.md R37: after SET_COMMAND or SET_TELEMETRY completes exactly one tag bit is 1, after NEW or reset none is, after PARSE
they are what the wire carried, and every other command keeps them. -/
def Obligations.TagBitsFollowTheirWriters : Prop :=
  (State.reset.pkt.header.drive = false ∧ State.reset.pkt.header.status = false ∧ State.reset.pkt.header.sleep = false) ∧
  ∀ (i : Instr) (s t : State), exec i s = .next t → t.status = .ok →
    ((i = .setCommand ∨ i = .setTelemetry) →
      t.pkt.header.drive.toNat + t.pkt.header.status.toNat + t.pkt.header.sleep.toNat = 1) ∧
    (i = .new → t.pkt.header.drive = false ∧ t.pkt.header.status = false ∧ t.pkt.header.sleep = false) ∧
    (i = .parse → t.pkt.header.drive = (s.inByte 2).getLsbD 7 ∧ t.pkt.header.status = (s.inByte 2).getLsbD 6 ∧
      t.pkt.header.sleep = (s.inByte 2).getLsbD 5) ∧
    (i ≠ .setCommand → i ≠ .setTelemetry → i ≠ .new → i ≠ .parse →
      t.pkt.header.drive = s.pkt.header.drive ∧ t.pkt.header.status = s.pkt.header.status ∧
        t.pkt.header.sleep = s.pkt.header.sleep)

/-- The header codec, the checksum engine and the payload interpreters neither read nor write the packet context
(41_header_codec.md R115, 44_payload_interpreters.md): with another packet in its place the command does the same and leaves that
packet. "The same" is at equal free values: the two runs start at the same index of the next one (log entry 3, the model's
choice). -/
def Obligations.StatelessCommandsIgnorePacket : Prop :=
  ∀ (i : Instr) (s t : State) (p : Packet), i.packetFree = true → exec i s = .next t →
    t.pkt = s.pkt ∧ exec i { s with pkt := p } = .next { t with pkt := p }

/-- A command uses only the operand bits of its row (30_encoding.md R94, R95): where two operand files agree in those low bits, it
does the same with either. The tag code and the checksum offset count in all 32 bits. "The same" is at equal free values: the
two runs start at the same index of the next one (log entry 3, the model's choice). -/
def Obligations.OperandsCountOnlyInTheirWidth : Prop :=
  ∀ (i : Instr) (s t : State) (a : Vector Word 8),
    (∀ k : Fin 8, a[k].toNat % 2 ^ i.operandWidth k.val = s.arg[k].toNat % 2 ^ i.operandWidth k.val) →
    exec i s = .next t → exec i { s with arg := a } = .next { t with arg := a }

/-- A command reads IN_BUF only below IN_LEN and never writes it (10_state.md R26, 20_memory.md R70): with other bytes at and above
IN_LEN it does the same. "The same" is at equal free values: an unwritten byte below IN_LEN has the same draw in both runs
(log entry 3, the model's choice). -/
def Obligations.CommandsReadOnlyValidInput : Prop :=
  ∀ (i : Instr) (s t : State) (m : Memory),
    (∀ j, j < s.inLen.toNat → m.read? j = s.inBuf.read? j) →
    exec i s = .next t → exec i { s with inBuf := m } = .next { t with inBuf := m }

/-- Where the host has written every byte of `IN[0..IN_LEN)`, no free value enters a command: at any index of the next free value
it does the same (20_memory.md R57 a, R70; log entry 3). -/
def Obligations.WrittenInputLeavesNothingFree : Prop :=
  ∀ (i : Instr) (s t : State) (d : Nat),
    (∀ j, j < s.inLen.toNat → (s.inBuf.read? j).isSome = true) →
    exec i s = .next t → ∃ d', exec i { s with draws := d } = .next { t with draws := d' }

/-- The output commands replace the whole of OUT_BUF (20_memory.md R71, 10_state.md R39, 42_packet_codec.md R164,
70_reset_and_hazards.md R270): what it held before has no influence on a successful one, and every other command leaves it. The
two runs start at the same index of the next free value, so they share their free values (log entry 3, the model's choice). -/
def Obligations.OutputCommandsSupersede : Prop :=
  ∀ (i : Instr) (s t : State) (m : Memory) (n : Word), exec i s = .next t →
    (i.writesOutput = true → t.status = .ok → exec i { s with outBuf := m, outLen := n } = .next t) ∧
    (i.writesOutput = false → exec i { s with outBuf := m, outLen := n } = .next { t with outBuf := m, outLen := n })

/-! ### Header codec -/

/-- 41_header_codec.md R112: packing is the inverse of unpacking, both ways. -/
def Obligations.HeaderCodecRoundTrips : Prop :=
  (∀ b0 b1 b2 b3 : Byte, encodeHeader (decodeHeader b0 b1 b2 b3) = [b0, b1, b2, b3]) ∧
  ∀ h : Header, ∃ b0 b1 b2 b3, encodeHeader h = [b0, b1, b2, b3] ∧ decodeHeader b0 b1 b2 b3 = h

/-- 41_header_codec.md R114, HDR_DECODE: with at least 4 valid bytes it reports the seven fields of the header and changes nothing
else; with fewer it fails with MALFORMED_HEADER. -/
def Obligations.HdrDecodeReportsFields : Prop :=
  ∀ s : State,
    (4 ≤ s.inLen.toNat → ∃ t, exec .hdrDecode s = .next t ∧ ReportsOnly 7 s t ∧
      t.res[0].toNat = (s.inByte 0).toNat * 256 + (s.inByte 1).toNat ∧
      t.res[1].toNat = (s.inByte 2).toNat / 128 ∧ t.res[2].toNat = (s.inByte 2).toNat / 64 % 2 ∧
      t.res[3].toNat = (s.inByte 2).toNat / 32 % 2 ∧ t.res[4].toNat = (s.inByte 2).toNat / 16 % 2 ∧
      t.res[5].toNat = (s.inByte 2).toNat % 16 ∧ t.res[6].toNat = (s.inByte 3).toNat) ∧
    (s.inLen.toNat < 4 → ∃ t, exec .hdrDecode s = .next t ∧ OnlyStatus .malformedHeader s t)

/-- 41_header_codec.md R116, HDR_ENCODE: the four bytes of the header whose fields are the low bits of ARG0 to ARG6. -/
def Obligations.HdrEncodePacksOperands : Prop :=
  ∀ s : State, ∃ t, exec .hdrEncode s = .next t ∧
    EmitsOnly
      [BitVec.ofNat 8 (s.arg[0].toNat / 256), BitVec.ofNat 8 s.arg[0].toNat,
        BitVec.ofNat 8 (s.arg[1].toNat % 2 * 128 + s.arg[2].toNat % 2 * 64 + s.arg[3].toNat % 2 * 32 +
          s.arg[4].toNat % 2 * 16 + s.arg[5].toNat % 16),
        BitVec.ofNat 8 s.arg[6].toNat] s t

/-! ### Packet codec -/

/-- 42_packet_codec.md R130, NEW: the packet is empty, nothing else changes but STATUS; a SERIALIZE straight after it fails with
INVALID_LENGTH and a GET_COMMAND reports Response. -/
def Obligations.NewEmptiesPacket : Prop :=
  ∀ s : State, ∃ t, exec .new s = .next t ∧
    UpdatesPacketOnly
      { header := { count := 0#16, drive := false, status := false, sleep := false, ack := false, pad := 0#4, length := 0#8 },
        payload := [], checksum := 0#8 } s t ∧
    (∃ u, exec .serialize t = .next u ∧ OnlyStatus .invalidLength t u) ∧
    (∃ u, exec .getCommand t = .next u ∧ u.res[0] = 1#32)

/-- 42_packet_codec.md R132, PARSE, with the order of its checks (60_exceptions.md R234): the three failures, and the packet that a
success stores whole. The checksum byte is stored, not verified. -/
def Obligations.ParseStoresWirePacket : Prop :=
  ∀ s : State,
    (s.inLen.toNat < 4 → ∃ t, exec .parse s = .next t ∧ OnlyStatus .malformedHeader s t) ∧
    (4 ≤ s.inLen.toNat → (s.inByte 3).toNat < 5 → ∃ t, exec .parse s = .next t ∧ OnlyStatus .invalidLength s t) ∧
    (4 ≤ s.inLen.toNat → 5 ≤ (s.inByte 3).toNat → s.inLen.toNat < (s.inByte 3).toNat →
      ∃ t, exec .parse s = .next t ∧ OnlyStatus .truncatedPacket s t) ∧
    (5 ≤ (s.inByte 3).toNat → (s.inByte 3).toNat ≤ s.inLen.toNat → ∃ t, exec .parse s = .next t ∧
      UpdatesPacketOnly t.pkt s t ∧
      t.pkt.header.count.toNat = (s.inByte 0).toNat * 256 + (s.inByte 1).toNat ∧
      t.pkt.header.drive.toNat = (s.inByte 2).toNat / 128 ∧ t.pkt.header.status.toNat = (s.inByte 2).toNat / 64 % 2 ∧
      t.pkt.header.sleep.toNat = (s.inByte 2).toNat / 32 % 2 ∧ t.pkt.header.ack.toNat = (s.inByte 2).toNat / 16 % 2 ∧
      t.pkt.header.pad.toNat = (s.inByte 2).toNat % 16 ∧ t.pkt.header.length = s.inByte 3 ∧
      t.pkt.payload.length = (s.inByte 3).toNat - 5 ∧
      (∀ j, j < (s.inByte 3).toNat - 5 → t.pkt.payload[j]? = some (s.inByte (4 + j))) ∧
      t.pkt.checksum = s.inByte ((s.inByte 3).toNat - 1))

/-- 42_packet_codec.md R134: PARSE reads only `IN[0..L)`, whatever follows and whatever packet was held, and it stores the received
checksum byte, whatever it is. -/
def Obligations.ParseIgnoresTrailingBytes : Prop :=
  ∀ s s' : State, 5 ≤ (s.inByte 3).toNat → (s.inByte 3).toNat ≤ s.inLen.toNat → (s.inByte 3).toNat ≤ s'.inLen.toNat →
    (∀ j, j < (s.inByte 3).toNat → s'.inByte j = s.inByte j) →
    ∃ t t', exec .parse s = .next t ∧ exec .parse s' = .next t' ∧ t.status = .ok ∧ t'.status = .ok ∧ t'.pkt = t.pkt ∧
      t'.pkt.checksum = s.inByte ((s.inByte 3).toNat - 1)

/-- 42_packet_codec.md R135: after a successful PARSE, HasTelemetry holds exactly when bit 6 of `IN[2]` is 1 and L = 14, as
HAS_TELEMETRY then reports. -/
def Obligations.TelemetryAfterParse : Prop :=
  ∀ s t : State, exec .parse s = .next t → t.status = .ok →
    ∃ u, exec .hasTelemetry t = .next u ∧
      u.res[0] = if (s.inByte 2).getLsbD 6 = true ∧ (s.inByte 3).toNat = 14 then 1#32 else 0#32

/-- 42_packet_codec.md R136, SET_COMMAND: a tag code of at most 2 sets exactly its bit; any greater value, compared in full, is
INVALID_OPERAND. -/
def Obligations.SetCommandSetsOneTag : Prop :=
  ∀ s : State,
    (s.arg[0].toNat ≤ 2 → ∃ t, exec .setCommand s = .next t ∧
      UpdatesPacketOnly
        { s.pkt with header :=
          { s.pkt.header with
            drive := s.arg[0] == 0#32, status := s.arg[0] == 1#32, sleep := s.arg[0] == 2#32 } } s t) ∧
    (2 < s.arg[0].toNat → ∃ t, exec .setCommand s = .next t ∧ OnlyStatus .invalidOperand s t)

/-- 42_packet_codec.md R137: SET_COMMAND is idempotent; after it with a tag code t exactly one tag bit is 1, and while the header
stays GET_COMMAND returns t. -/
def Obligations.SetCommandIsIdempotentAndExclusive : Prop :=
  ∀ s t : State, exec .setCommand s = .next t →
    exec .setCommand t = .next t ∧
    (s.arg[0].toNat ≤ 2 →
      (∀ u : State, u.pkt.header = t.pkt.header → ∃ v, exec .getCommand u = .next v ∧ v.res[0] = s.arg[0]) ∧
      t.pkt.header.drive.toNat + t.pkt.header.status.toNat + t.pkt.header.sleep.toNat = 1)

/-- 42_packet_codec.md R140 and R141, SET_PAYLOAD: up to 250 bytes of input become the payload and Length is recomputed; more is
PAYLOAD_TOO_LARGE. -/
def Obligations.SetPayloadStoresInput : Prop :=
  ∀ s : State,
    (s.inLen.toNat ≤ 250 → ∃ t, exec .setPayload s = .next t ∧ UpdatesPacketOnly t.pkt s t ∧
      t.pkt.payload.length = s.inLen.toNat ∧ (∀ j, j < s.inLen.toNat → t.pkt.payload[j]? = some (s.inByte j)) ∧
      t.pkt.header.length.toNat = s.inLen.toNat + 5 ∧
      t.pkt.header = { s.pkt.header with length := t.pkt.header.length } ∧ t.pkt.checksum = s.pkt.checksum) ∧
    (250 < s.inLen.toNat → ∃ t, exec .setPayload s = .next t ∧ OnlyStatus .payloadTooLarge s t)

/-- 42_packet_codec.md R142: after SET_PAYLOAD of `bytes` (at most 250), while the payload and Length stay, GET_PAYLOAD yields the
bytes and GET_LENGTH their number plus 5. -/
def Obligations.PayloadReadsBack : Prop :=
  ∀ (s t u : State) (bytes : List Byte), bytes.length ≤ 250 → InputIs bytes s → exec .setPayload s = .next t →
    u.pkt.payload = t.pkt.payload → u.pkt.header.length = t.pkt.header.length →
    (∃ v, exec .getPayload u = .next v ∧ OutputIs bytes v) ∧
    (∃ v, exec .getLength u = .next v ∧ v.res[0].toNat = bytes.length + 5)

/-- 42_packet_codec.md R144, SET_PACKET_COUNT: ARG0 modulo 2^16. -/
def Obligations.SetPacketCountWraps : Prop :=
  ∀ s : State, ∃ t, exec .setPacketCount s = .next t ∧
    UpdatesPacketOnly { s.pkt with header := { s.pkt.header with count := BitVec.ofNat 16 (s.arg[0].toNat % 65536) } } s t

/-- 42_packet_codec.md R152, SET_TELEMETRY: the Status tag alone, the nine bytes of the truncated operands, Length 14; afterwards
HAS_TELEMETRY reports 1. -/
def Obligations.SetTelemetryBuildsResponse : Prop :=
  ∀ s : State, ∃ t, exec .setTelemetry s = .next t ∧
    UpdatesPacketOnly
      { header := { s.pkt.header with drive := false, status := true, sleep := false, length := 14#8 }
        payload :=
          [BitVec.ofNat 8 (s.arg[0].toNat / 256), BitVec.ofNat 8 s.arg[0].toNat,
            BitVec.ofNat 8 (s.arg[1].toNat / 256), BitVec.ofNat 8 s.arg[1].toNat,
            BitVec.ofNat 8 (s.arg[2].toNat / 256), BitVec.ofNat 8 s.arg[2].toNat,
            BitVec.ofNat 8 s.arg[3].toNat, BitVec.ofNat 8 s.arg[4].toNat, BitVec.ofNat 8 s.arg[5].toNat]
        checksum := s.pkt.checksum } s t ∧
    ∃ u, exec .hasTelemetry t = .next u ∧ u.res[0] = 1#32

/-- 42_packet_codec.md R146, GET_COMMAND: the result for each combination of the drive, status and sleep bits. -/
def Obligations.GetCommandReportsTag : Prop :=
  ∀ s : State, ∃ t, exec .getCommand s = .next t ∧ ReportsOnly 1 s t ∧
    t.res[0] =
      match s.pkt.header.drive, s.pkt.header.status, s.pkt.header.sleep with
      | false, false, false => 1#32
      | false, true, false => 1#32
      | false, false, true => 2#32
      | false, true, true => 2#32
      | true, false, false => 0#32
      | true, true, false => 0#32
      | true, false, true => 0#32
      | true, true, true => 0#32

/-- 42_packet_codec.md R147, R148, R150, R154 and R156: GET_ACK, GET_LENGTH, GET_PACKET_COUNT and GET_CHECKSUM report their field,
zero-extended, in RES0; HAS_TELEMETRY reports 1 exactly when Status is set and the payload has 9 bytes (10_state.md R38). -/
def Obligations.FieldAccessorsReport : Prop :=
  ∀ s : State,
    (∃ t, exec .getAck s = .next t ∧ ReportsOnly 1 s t ∧ t.res[0].toNat = s.pkt.header.ack.toNat) ∧
    (∃ t, exec .getLength s = .next t ∧ ReportsOnly 1 s t ∧ t.res[0].toNat = s.pkt.header.length.toNat) ∧
    (∃ t, exec .getPacketCount s = .next t ∧ ReportsOnly 1 s t ∧ t.res[0].toNat = s.pkt.header.count.toNat) ∧
    (∃ t, exec .getChecksum s = .next t ∧ ReportsOnly 1 s t ∧ t.res[0].toNat = s.pkt.checksum.toNat) ∧
    (∃ t, exec .hasTelemetry s = .next t ∧ ReportsOnly 1 s t ∧
      t.res[0] = if s.pkt.header.status = true ∧ s.pkt.payload.length = 9 then 1#32 else 0#32)

/-- 42_packet_codec.md R149, GET_PAYLOAD: the payload is copied out. The Length invariant (10_state.md R36) bounds it. -/
def Obligations.GetPayloadCopiesOut : Prop :=
  ∀ s : State, s.pkt.lengthOk → ∃ t, exec .getPayload s = .next t ∧ EmitsOnly s.pkt.payload s t

/-- 42_packet_codec.md R155, GET_TELEMETRY: the six fields of the current payload, or NO_TELEMETRY. -/
def Obligations.GetTelemetryReportsRecord : Prop :=
  ∀ s : State,
    (∀ s0 s1 s2 s3 s4 s5 s6 s7 s8 : Byte,
      s.pkt.header.status = true → s.pkt.payload = [s0, s1, s2, s3, s4, s5, s6, s7, s8] →
      ∃ t, exec .getTelemetry s = .next t ∧ ReportsOnly 6 s t ∧
        t.res[0].toNat = s0.toNat * 256 + s1.toNat ∧ t.res[1].toNat = s2.toNat * 256 + s3.toNat ∧
        t.res[2].toNat = s4.toNat * 256 + s5.toNat ∧ t.res[3].toNat = s6.toNat ∧ t.res[4].toNat = s7.toNat ∧
        t.res[5].toNat = s8.toNat) ∧
    (¬(s.pkt.header.status = true ∧ s.pkt.payload.length = 9) →
      ∃ t, exec .getTelemetry s = .next t ∧ OnlyStatus .noTelemetry s t)

/-- 42_packet_codec.md R160 and R161, SERIALIZE: INVALID_LENGTH when Length is below 5; else the header bytes, the payload and the
checksum over both, OUT_LEN = Length, and P.checksum. The Length invariant (10_state.md R36) is the premise R160 names. -/
def Obligations.SerializeEmitsWirePacket : Prop :=
  ∀ s : State,
    (s.pkt.header.length.toNat < 5 → ∃ t, exec .serialize s = .next t ∧ OnlyStatus .invalidLength s t) ∧
    (5 ≤ s.pkt.header.length.toNat → s.pkt.lengthOk → ∃ (t : State) (body : List Byte), exec .serialize s = .next t ∧
      body =
        [BitVec.ofNat 8 (s.pkt.header.count.toNat / 256), BitVec.ofNat 8 s.pkt.header.count.toNat,
          BitVec.ofNat 8 (s.pkt.header.drive.toNat * 128 + s.pkt.header.status.toNat * 64 + s.pkt.header.sleep.toNat * 32 +
            s.pkt.header.ack.toNat * 16 + s.pkt.header.pad.toNat),
          s.pkt.header.length] ++ s.pkt.payload ∧
      t.status = .ok ∧ KeepsInputs s t ∧ t.res = s.res ∧
      t.pkt = { s.pkt with checksum := t.pkt.checksum } ∧
      t.pkt.checksum.toNat = (body.map fun b => (List.range 8).countP b.getLsbD).sum % 256 ∧
      OutputIs (body ++ [t.pkt.checksum]) t ∧ t.outLen.toNat = s.pkt.header.length.toNat)

/-- 42_packet_codec.md R162: two SERIALIZE commands with no mutator between them (and no reset) give identical output, whatever else
the host issues between them: reads, operand and input writes, other commands, illegal words. That the host's events stand in a
list of the state is the model's choice (log entry 1). -/
def Obligations.SerializeIsRepeatable : Prop :=
  ∀ (s t u v : State) (between rest : List HostEvent),
    exec .serialize s = .next t → (∀ ev ∈ between, ev.keepsPacketFields = true) →
    t.pending = between ++ rest → Host.Core.run Sys2Proof.core between.length t = .next u →
    exec .serialize u = .next v → t.status = .ok →
    v.status = .ok ∧ v.outLen = t.outLen ∧ ∀ j, v.outByte? j = t.outByte? j

/-- 42_packet_codec.md R163, the round-trip law: PARSE of what SERIALIZE emitted restores every header field and the payload, and the
checksum it stores is the last byte of the wire packet. -/
def Obligations.ParseOfSerializeRestoresPacket : Prop :=
  ∀ (s t u : State) (wire : List Byte), s.pkt.lengthOk → exec .serialize s = .next t → t.status = .ok →
    OutputIs wire t → InputStartsWith wire u →
    ∃ v, exec .parse u = .next v ∧ v.status = .ok ∧ v.pkt.header = s.pkt.header ∧ v.pkt.payload = s.pkt.payload ∧
      wire[wire.length - 1]? = some v.pkt.checksum

/-! ### Checksum engine -/

/-- 43_checksum.md R190: `Checksum8` is the number of 1 bits over all bytes, modulo 256, and 0 of the empty sequence. -/
def Obligations.ChecksumCountsSetBits : Prop :=
  checksum8 [] = 0#8 ∧
  ∀ s : List Byte, (checksum8 s).toNat = (s.flatMap fun b => (List.range 8).map fun k => b.getLsbD k).count true % 256

/-- 43_checksum.md R192, CK_COMPUTE: RES0 is the checksum of `IN[0..IN_LEN)`. -/
def Obligations.CkComputeReportsChecksum : Prop :=
  ∀ s : State, ∃ t, exec .ckCompute s = .next t ∧ ReportsOnly 1 s t ∧
    t.res[0].toNat =
      (((List.range s.inLen.toNat).map s.inByte).map fun b => (List.range 8).countP b.getLsbD).sum % 256

/-- 43_checksum.md R194, CK_VERIFY: an offset in the buffer compares the byte there with the checksum of the bytes before it, as a
result and not as an error; an offset outside, compared in full, is TRUNCATED_PACKET. -/
def Obligations.CkVerifyComparesChecksum : Prop :=
  ∀ s : State,
    (s.arg[0].toNat < s.inLen.toNat → ∃ t, exec .ckVerify s = .next t ∧ ReportsOnly 2 s t ∧
      t.res[1].toNat =
        (((List.range s.arg[0].toNat).map s.inByte).map fun b => (List.range 8).countP b.getLsbD).sum % 256 ∧
      t.res[0] = if t.res[1].toNat = (s.inByte s.arg[0].toNat).toNat then 1#32 else 0#32) ∧
    (s.inLen.toNat ≤ s.arg[0].toNat → ∃ t, exec .ckVerify s = .next t ∧ OnlyStatus .truncatedPacket s t)

/-- 43_checksum.md R196: what SERIALIZE emits verifies, for any payload content. -/
def Obligations.SerializedPacketVerifies : Prop :=
  ∀ (s t u : State) (wire : List Byte), s.pkt.lengthOk → exec .serialize s = .next t → t.status = .ok →
    OutputIs wire t → InputIs wire u → u.arg[0].toNat = wire.length - 1 →
    ∃ v, exec .ckVerify u = .next v ∧ v.status = .ok ∧ v.res[0] = 1#32

/-- 43_checksum.md R197 (a): with the offset fixed at the last byte, any single bit flip of a packet whose checksum verifies is
detected, in the bytes it covers and in the checksum byte itself. -/
def Obligations.SingleBitFlipIsDetected : Prop :=
  ∀ (u : State) (body : List Byte) (j k : Nat), j ≤ body.length → k < 8 → body.length < 256 →
    InputIs ((body ++ [checksum8 body]).modify j fun b => b ^^^ (1#8 <<< k)) u → u.arg[0].toNat = body.length →
    ∃ v, exec .ckVerify u = .next v ∧ v.status = .ok ∧ v.res[0] = 0#32

/-! ### Payload interpreters -/

/-- 44_payload_interpreters.md R212, DRIVE_DECODE: exactly 3 bytes report direction, duration and speed as they are; any other count
is INVALID_PAYLOAD_SIZE. -/
def Obligations.DriveDecodeReportsBody : Prop :=
  ∀ s : State,
    (s.inLen.toNat = 3 → ∃ t, exec .driveDecode s = .next t ∧ ReportsOnly 3 s t ∧
      t.res[0].toNat = (s.inByte 0).toNat ∧ t.res[1].toNat = (s.inByte 1).toNat ∧ t.res[2].toNat = (s.inByte 2).toNat) ∧
    (s.inLen.toNat ≠ 3 → ∃ t, exec .driveDecode s = .next t ∧ OnlyStatus .invalidPayloadSize s t)

/-- 44_payload_interpreters.md R213, DRIVE_ENCODE: the low bytes of ARG0 to ARG2. -/
def Obligations.DriveEncodeEmitsBody : Prop :=
  ∀ s : State, ∃ t, exec .driveEncode s = .next t ∧
    EmitsOnly [BitVec.ofNat 8 s.arg[0].toNat, BitVec.ofNat 8 s.arg[1].toNat, BitVec.ofNat 8 s.arg[2].toNat] s t

/-- 44_payload_interpreters.md R215: the telemetry record's encoding and decoding are inverse, both ways, on 9 bytes. -/
def Obligations.TelemetryRecordRoundTrips : Prop :=
  (∀ t : Telemetry, ∃ s0 s1 s2 s3 s4 s5 s6 s7 s8, telemetryBytes t = [s0, s1, s2, s3, s4, s5, s6, s7, s8] ∧
    telemetryFields s0 s1 s2 s3 s4 s5 s6 s7 s8 = t) ∧
  ∀ s0 s1 s2 s3 s4 s5 s6 s7 s8 : Byte,
    telemetryBytes (telemetryFields s0 s1 s2 s3 s4 s5 s6 s7 s8) = [s0, s1, s2, s3, s4, s5, s6, s7, s8]

/-- 44_payload_interpreters.md R216, TELEM_DECODE: exactly 9 bytes report the six big-endian fields; any other count is
INVALID_PAYLOAD_SIZE. -/
def Obligations.TelemDecodeReportsRecord : Prop :=
  ∀ s : State,
    (s.inLen.toNat = 9 → ∃ t, exec .telemDecode s = .next t ∧ ReportsOnly 6 s t ∧
      t.res[0].toNat = (s.inByte 0).toNat * 256 + (s.inByte 1).toNat ∧
      t.res[1].toNat = (s.inByte 2).toNat * 256 + (s.inByte 3).toNat ∧
      t.res[2].toNat = (s.inByte 4).toNat * 256 + (s.inByte 5).toNat ∧
      t.res[3].toNat = (s.inByte 6).toNat ∧ t.res[4].toNat = (s.inByte 7).toNat ∧ t.res[5].toNat = (s.inByte 8).toNat) ∧
    (s.inLen.toNat ≠ 9 → ∃ t, exec .telemDecode s = .next t ∧ OnlyStatus .invalidPayloadSize s t)

/-- 44_payload_interpreters.md R217, TELEM_ENCODE: the nine bytes of the truncated operands ARG0 to ARG5. -/
def Obligations.TelemEncodeEmitsRecord : Prop :=
  ∀ s : State, ∃ t, exec .telemEncode s = .next t ∧
    EmitsOnly
      [BitVec.ofNat 8 (s.arg[0].toNat / 256), BitVec.ofNat 8 s.arg[0].toNat,
        BitVec.ofNat 8 (s.arg[1].toNat / 256), BitVec.ofNat 8 s.arg[1].toNat,
        BitVec.ofNat 8 (s.arg[2].toNat / 256), BitVec.ofNat 8 s.arg[2].toNat,
        BitVec.ofNat 8 s.arg[3].toNat, BitVec.ofNat 8 s.arg[4].toNat, BitVec.ofNat 8 s.arg[5].toNat] s t

/-- 44_payload_interpreters.md R218, first part: encoding, looping the output back to the input and decoding returns the truncated
operands, for the drive body and for the telemetry record. -/
def Obligations.InterpretersRoundTripThroughBlock : Prop :=
  ∀ (s t u : State) (bytes : List Byte), OutputIs bytes t → InputIs bytes u →
    (exec .driveEncode s = .next t → ∃ v, exec .driveDecode u = .next v ∧ v.status = .ok ∧
      v.res[0].toNat = s.arg[0].toNat % 256 ∧ v.res[1].toNat = s.arg[1].toNat % 256 ∧
      v.res[2].toNat = s.arg[2].toNat % 256) ∧
    (exec .telemEncode s = .next t → ∃ v, exec .telemDecode u = .next v ∧ v.status = .ok ∧
      v.res[0].toNat = s.arg[0].toNat % 65536 ∧ v.res[1].toNat = s.arg[1].toNat % 65536 ∧
      v.res[2].toNat = s.arg[2].toNat % 65536 ∧ v.res[3].toNat = s.arg[3].toNat % 256 ∧
      v.res[4].toNat = s.arg[4].toNat % 256 ∧ v.res[5].toNat = s.arg[5].toNat % 256)

/-- 44_payload_interpreters.md R218, the document's scenario: SET_TELEMETRY, SERIALIZE, and PARSE of the output by a block in any
state give HAS_TELEMETRY = 1 and every telemetry field equal to the (truncated) input. -/
def Obligations.TelemetrySurvivesTheWire : Prop :=
  ∀ (s t u p : State) (wire : List Byte), exec .setTelemetry s = .next t → exec .serialize t = .next u →
    OutputIs wire u → InputStartsWith wire p →
    ∃ q h g, exec .parse p = .next q ∧ q.status = .ok ∧ exec .hasTelemetry q = .next h ∧ h.res[0] = 1#32 ∧
      exec .getTelemetry q = .next g ∧ g.status = .ok ∧
      g.res[0].toNat = s.arg[0].toNat % 65536 ∧ g.res[1].toNat = s.arg[1].toNat % 65536 ∧
      g.res[2].toNat = s.arg[2].toNat % 65536 ∧ g.res[3].toNat = s.arg[3].toNat % 256 ∧
      g.res[4].toNat = s.arg[4].toNat % 256 ∧ g.res[5].toNat = s.arg[5].toNat % 256

/-! ### The register window -/

/-- 20_memory.md R53, R54 and R56: inside the window a host access is admitted exactly when it is a 4-byte access at a multiple of 4
to a register that is not at a reserved offset, or a 1-byte access to a buffer; any other access there is stuck, whatever the
state. (An admitted write to IN_LEN may still be refused, R55.) That an access at an offset of 0x400 or above, beyond the window
(R50), is stuck too is log entry 7 (DEDUCED); that being stuck is a `Fault` is log entry 6 (DEDUCED); that the events stand in
a list of the state is log entry 1 (the model's choice). -/
def Obligations.RefusedAccessesAreStuck : Prop :=
  ∀ (s : State) (rest : List HostEvent) (offset width : Nat) (v : Word),
    ((offset < 0x010 ∨ (0x020 ≤ offset ∧ offset < 0x060)) ∧ width = 4 ∧ offset % 4 = 0 ∨
      (0x100 ≤ offset ∧ offset < 0x300) ∧ width = 1) = (∃ loc, locate offset width = .ok loc) ∧
    ((∀ loc, locate offset width ≠ .ok loc) →
      (s.pending = .read offset width :: rest → ∃ f, step s = .fault f) ∧
      (s.pending = .write offset width v :: rest → ∃ f, step s = .fault f))

/-- 20_memory.md R55: a write above 256 to IN_LEN is refused and any other value is stored. That the refusal is a `Fault`, and its
name `inLenTooLarge`, are the model's (log entry 6: DEDUCED, and DESIGN CHOICE for the names), and so are the list of events
(log entry 1) and the buffer size taken at its default, 256 (log entry 5). -/
def Obligations.InLenWriteIsBounded : Prop :=
  ∀ (s : State) (rest : List HostEvent) (v : Word), s.pending = .write 0x008 4 v :: rest →
    (256 < v.toNat → step s = .fault .inLenTooLarge) ∧
    (v.toNat ≤ 256 → step s = .next { s with pending := rest, inLen := v })

/-- Host writes that store or are ignored (10_state.md R21, R22, R23, R25, 20_memory.md R51, R52, R58): ARG takes the word, a byte of
IN_BUF takes the byte and every other byte reads as before, and a write to STATUS, OUT_LEN, RES or OUT_BUF changes nothing. That
a 1-byte write carries its byte in bits [7:0] of the event's value, whose other bits have no effect, is log entry 7 (DEDUCED);
that the events stand in a list of the state is log entry 1 (the model's choice). -/
def Obligations.HostWritesStoreOrAreIgnored : Prop :=
  ∀ (s : State) (rest : List HostEvent) (v : Word),
    (∀ i : Fin 8, s.pending = .write (0x020 + 4 * i.val) 4 v :: rest →
      ∃ t, step s = .next t ∧ t = { s with pending := rest, arg := t.arg } ∧ t.arg[i] = v ∧
        ∀ k : Fin 8, k ≠ i → t.arg[k] = s.arg[k]) ∧
    (∀ j, j < 256 → s.pending = .write (0x100 + j) 1 v :: rest →
      ∃ t, step s = .next t ∧ t = { s with pending := rest, inBuf := t.inBuf } ∧
        t.inBuf.read? j = some (BitVec.ofNat 8 v.toNat) ∧ ∀ k, k ≠ j → t.inBuf.read? k = s.inBuf.read? k) ∧
    (s.pending = .write 0x004 4 v :: rest → step s = .next { s with pending := rest }) ∧
    (s.pending = .write 0x00C 4 v :: rest → step s = .next { s with pending := rest }) ∧
    (∀ i : Fin 8, s.pending = .write (0x040 + 4 * i.val) 4 v :: rest → step s = .next { s with pending := rest }) ∧
    (∀ j, j < 256 → s.pending = .write (0x200 + j) 1 v :: rest → step s = .next { s with pending := rest })

/-- Host reads of the registers (20_memory.md R53, R58; 10_state.md R20 to R25): each returns its register, STATUS its code with
[31:8] = 0, and changes nothing of the block. That the answer is appended to a list of the state is the model's choice (log
entry 2). -/
def Obligations.RegisterReadsReturnTheRegister : Prop :=
  ∀ (s : State) (rest : List HostEvent) (offset : Nat), s.pending = .read offset 4 :: rest →
    (offset = 0x000 → step s = .next { s with pending := rest, received := s.received ++ [s.cmd] }) ∧
    (offset = 0x004 → step s = .next { s with pending := rest, received := s.received ++ [
      match s.status with
      | .ok => 0#32
      | .malformedHeader => 1#32
      | .truncatedPacket => 2#32
      | .invalidLength => 3#32
      | .invalidPayloadSize => 4#32
      | .payloadTooLarge => 5#32
      | .invalidOperand => 6#32
      | .illegalCommand => 7#32
      | .noTelemetry => 8#32] }) ∧
    (offset = 0x008 → step s = .next { s with pending := rest, received := s.received ++ [s.inLen] }) ∧
    (offset = 0x00C → step s = .next { s with pending := rest, received := s.received ++ [s.outLen] }) ∧
    (∀ i : Fin 8, offset = 0x020 + 4 * i.val →
      step s = .next { s with pending := rest, received := s.received ++ [s.arg[i]] }) ∧
    (∀ i : Fin 8, offset = 0x040 + 4 * i.val →
      step s = .next { s with pending := rest, received := s.received ++ [s.res[i]] })

/-- Host reads of the buffers (20_memory.md R51, R52, R57, R58): a byte with a known value is returned, zero-extended, and nothing
of the block changes; an unwritten byte of IN_BUF and a byte of OUT_BUF at an index >= OUT_LEN return some byte, of which
nothing is said, and again only the host's side changes (and the index of the next free value, log entry 3). -/
def Obligations.BufferReadsReturnTheByteOrADraw : Prop :=
  ∀ (s : State) (rest : List HostEvent) (j : Nat), j < 256 →
    (s.pending = .read (0x100 + j) 1 :: rest → ∃ (t : State) (b : Byte), step s = .next t ∧
      t = { s with pending := rest, received := s.received ++ [b.setWidth 32], draws := t.draws } ∧
      ∀ known, s.inBuf.read? j = some known → b = known ∧ t.draws = s.draws) ∧
    (s.pending = .read (0x200 + j) 1 :: rest → ∃ (t : State) (b : Byte), step s = .next t ∧
      t = { s with pending := rest, received := s.received ++ [b.setWidth 32], draws := t.draws } ∧
      ∀ known, j < s.outLen.toNat → s.outBuf.read? j = some known → b = known ∧ t.draws = s.draws)

/-- The pseudo-instruction `loopback` (30_encoding.md R100): its accesses, performed one by one, return the output's length and
bytes to the host, load them as the input, and change nothing else of the block. That the host's accesses and answers are lists
of the state is the model's choice (log entries 1 and 2). -/
def Obligations.LoopbackCopiesOutputToInput : Prop :=
  ∀ (s : State) (bytes : List Byte) (rest : List HostEvent), bytes.length ≤ 255 → OutputIs bytes s →
    s.pending = asmLoopback bytes ++ rest →
    ∃ t, Host.Core.run Sys2Proof.core (2 * bytes.length + 2) s = .next t ∧
      t.received = s.received ++ BitVec.ofNat 32 bytes.length :: bytes.map (fun b => b.setWidth 32) ∧
      InputIs bytes t ∧ (∀ j, bytes.length ≤ j → t.inBuf.read? j = s.inBuf.read? j) ∧
      t = { s with pending := rest, received := t.received, inLen := t.inLen, inBuf := t.inBuf }
end

