-- ==== Sys2Proof/Laws/Memory.lean ====
section
/-! SUPPORT. The byte memories: read after write, and the canonical form that every operation keeps. -/

namespace Sys2Proof.Machine.Memory

@[simp] theorem read?_nil (j : Nat) : read? [] j = none := rfl

theorem read?_cons (k : Nat) (b : Byte) (m : Memory) (j : Nat) :
    read? ((k, b) :: m) j = if k = j then some b else read? m j := rfl

/-- The byte written is the byte read. -/
@[simp] theorem read?_write_same (m : Memory) (j : Nat) (b : Byte) : (m.write j b).read? j = some b := by
  induction m with
  | nil => simp [write, read?]
  | cons c m ih =>
    obtain ⟨k, c⟩ := c
    simp only [write]
    split
    · simp [read?]
    · split
      · simp [read?]
      · rw [read?_cons, if_neg (by omega), ih]

/-- A write leaves every other byte alone. -/
theorem read?_write_ne (m : Memory) {j k : Nat} (b : Byte) (h : k ≠ j) : (m.write j b).read? k = m.read? k := by
  induction m with
  | nil => simp [write, read?, Ne.symm h]
  | cons c m ih =>
    obtain ⟨l, c⟩ := c
    simp only [write]
    split
    · rw [read?_cons, if_neg (Ne.symm h)]
    · split
      · next hl => subst hl; simp [read?_cons, Ne.symm h]
      · simp only [read?_cons, ih]

/-- The bytes of `ofBytesFrom` are those of the list, at their places. -/
theorem read?_ofBytesFrom (s : List Byte) (base j : Nat) :
    (ofBytesFrom base s).read? j = if base ≤ j then s[j - base]? else none := by
  induction s generalizing base with
  | nil => simp [ofBytesFrom]
  | cons b s ih =>
    rw [ofBytesFrom, read?_cons, ih]
    by_cases hj : base = j
    · simp [hj]
    · by_cases hl : base ≤ j
      · obtain ⟨d, rfl⟩ : ∃ d, j = base + 1 + d := ⟨j - (base + 1), by omega⟩
        rw [if_neg (by omega), if_pos (by omega), if_pos hl, show base + 1 + d - base = d + 1 by omega,
          show base + 1 + d - (base + 1) = d by omega, List.getElem?_cons_succ]
      · rw [if_neg hj, if_neg (by omega), if_neg hl]

@[simp] theorem read?_ofBytes (s : List Byte) (j : Nat) : (ofBytesFrom 0 s).read? j = s[j]? := by
  simp [read?_ofBytesFrom]

/-! ### The canonical form -/

theorem risingFrom_cons (low size k : Nat) (b : Byte) (m : Memory) :
    risingFrom low size ((k, b) :: m) = true ↔ low ≤ k ∧ k < size ∧ risingFrom (k + 1) size m = true := by
  simp [risingFrom, and_assoc]

theorem risingFrom_mono {low low' size : Nat} {m : Memory} (h : risingFrom low size m = true) (hl : low' ≤ low) :
    risingFrom low' size m = true := by
  cases m with
  | nil => rfl
  | cons c m =>
    obtain ⟨k, c⟩ := c
    rw [risingFrom_cons] at h ⊢
    exact ⟨by omega, h.2⟩

theorem risingFrom_write {low size : Nat} {m : Memory} {j : Nat} (b : Byte) (h : risingFrom low size m = true)
    (hl : low ≤ j) (hs : j < size) : risingFrom low size (m.write j b) = true := by
  induction m generalizing low with
  | nil => simp [write, risingFrom, hl, hs]
  | cons c m ih =>
    obtain ⟨k, c⟩ := c
    rw [risingFrom_cons] at h
    simp only [write]
    split
    · next hjk => simp only [risingFrom_cons]; exact ⟨hl, hs, by omega, h.2⟩
    · split
      · next hjk => subst hjk; rw [risingFrom_cons]; exact ⟨hl, hs, h.2.2⟩
      · rw [risingFrom_cons]; exact ⟨h.1, h.2.1, ih h.2.2 (by omega)⟩

/-- A write inside the memory keeps the canonical form. -/
theorem wf_write {size : Nat} {m : Memory} {j : Nat} (b : Byte) (h : wf size m = true) (hs : j < size) :
    wf size (m.write j b) = true := risingFrom_write b h (Nat.zero_le j) hs

theorem risingFrom_ofBytesFrom (s : List Byte) (base size : Nat) (h : base + s.length ≤ size) :
    risingFrom base size (ofBytesFrom base s) = true := by
  induction s generalizing base with
  | nil => rfl
  | cons b s ih =>
    simp only [List.length_cons] at h
    rw [ofBytesFrom, risingFrom_cons]
    exact ⟨le_refl _, by omega, ih (base + 1) (by omega)⟩

/-- Output bytes that fit the memory are in canonical form. -/
theorem wf_ofBytes {size : Nat} (s : List Byte) (h : s.length ≤ size) : wf size (ofBytesFrom 0 s) = true :=
  risingFrom_ofBytesFrom s 0 size (by omega)

@[simp] theorem wf_nil (size : Nat) : wf size [] = true := rfl

/-- A memory in canonical form lists no byte outside itself. -/
theorem read?_eq_none_of_risingFrom {low size : Nat} {m : Memory} {j : Nat} (h : risingFrom low size m = true)
    (hj : j < low ∨ size ≤ j) : m.read? j = none := by
  induction m generalizing low with
  | nil => rfl
  | cons c m ih =>
    obtain ⟨k, c⟩ := c
    rw [risingFrom_cons] at h
    rw [read?_cons, if_neg (by omega)]
    exact ih h.2.2 (by omega)

theorem read?_eq_none_of_wf {size : Nat} {m : Memory} {j : Nat} (h : wf size m = true) (hj : size ≤ j) :
    m.read? j = none := read?_eq_none_of_risingFrom h (.inr hj)

end Sys2Proof.Machine.Memory
end

