-- ==== Sys2Proof/Laws/State.lean ====
section
/-! SUPPORT. What each update of the state does to each field, so that no later proof unfolds a record update. -/

namespace Sys2Proof.Machine.State

/-! ### setStatus -/

@[simp] theorem cmd_setStatus (s : State) (c : Completion) : (s.setStatus c).cmd = s.cmd := rfl
@[simp] theorem arg_setStatus (s : State) (c : Completion) : (s.setStatus c).arg = s.arg := rfl
@[simp] theorem res_setStatus (s : State) (c : Completion) : (s.setStatus c).res = s.res := rfl
@[simp] theorem status_setStatus (s : State) (c : Completion) : (s.setStatus c).status = c := rfl
@[simp] theorem inLen_setStatus (s : State) (c : Completion) : (s.setStatus c).inLen = s.inLen := rfl
@[simp] theorem outLen_setStatus (s : State) (c : Completion) : (s.setStatus c).outLen = s.outLen := rfl
@[simp] theorem inBuf_setStatus (s : State) (c : Completion) : (s.setStatus c).inBuf = s.inBuf := rfl
@[simp] theorem outBuf_setStatus (s : State) (c : Completion) : (s.setStatus c).outBuf = s.outBuf := rfl
@[simp] theorem pkt_setStatus (s : State) (c : Completion) : (s.setStatus c).pkt = s.pkt := rfl
@[simp] theorem pending_setStatus (s : State) (c : Completion) : (s.setStatus c).pending = s.pending := rfl
@[simp] theorem received_setStatus (s : State) (c : Completion) : (s.setStatus c).received = s.received := rfl
@[simp] theorem draws_setStatus (s : State) (c : Completion) : (s.setStatus c).draws = s.draws := rfl

/-! ### setCmd -/

@[simp] theorem cmd_setCmd (s : State) (w : Word) : (s.setCmd w).cmd = w := rfl
@[simp] theorem arg_setCmd (s : State) (w : Word) : (s.setCmd w).arg = s.arg := rfl
@[simp] theorem res_setCmd (s : State) (w : Word) : (s.setCmd w).res = s.res := rfl
@[simp] theorem status_setCmd (s : State) (w : Word) : (s.setCmd w).status = s.status := rfl
@[simp] theorem inLen_setCmd (s : State) (w : Word) : (s.setCmd w).inLen = s.inLen := rfl
@[simp] theorem outLen_setCmd (s : State) (w : Word) : (s.setCmd w).outLen = s.outLen := rfl
@[simp] theorem inBuf_setCmd (s : State) (w : Word) : (s.setCmd w).inBuf = s.inBuf := rfl
@[simp] theorem outBuf_setCmd (s : State) (w : Word) : (s.setCmd w).outBuf = s.outBuf := rfl
@[simp] theorem pkt_setCmd (s : State) (w : Word) : (s.setCmd w).pkt = s.pkt := rfl
@[simp] theorem pending_setCmd (s : State) (w : Word) : (s.setCmd w).pending = s.pending := rfl
@[simp] theorem received_setCmd (s : State) (w : Word) : (s.setCmd w).received = s.received := rfl
@[simp] theorem draws_setCmd (s : State) (w : Word) : (s.setCmd w).draws = s.draws := rfl

/-! ### setResults -/

@[simp] theorem cmd_setResults (s : State) (vs : List Word) : (s.setResults vs).cmd = s.cmd := rfl
@[simp] theorem arg_setResults (s : State) (vs : List Word) : (s.setResults vs).arg = s.arg := rfl
@[simp] theorem status_setResults (s : State) (vs : List Word) : (s.setResults vs).status = s.status := rfl
@[simp] theorem inLen_setResults (s : State) (vs : List Word) : (s.setResults vs).inLen = s.inLen := rfl
@[simp] theorem outLen_setResults (s : State) (vs : List Word) : (s.setResults vs).outLen = s.outLen := rfl
@[simp] theorem inBuf_setResults (s : State) (vs : List Word) : (s.setResults vs).inBuf = s.inBuf := rfl
@[simp] theorem outBuf_setResults (s : State) (vs : List Word) : (s.setResults vs).outBuf = s.outBuf := rfl
@[simp] theorem pkt_setResults (s : State) (vs : List Word) : (s.setResults vs).pkt = s.pkt := rfl
@[simp] theorem pending_setResults (s : State) (vs : List Word) : (s.setResults vs).pending = s.pending := rfl
@[simp] theorem received_setResults (s : State) (vs : List Word) : (s.setResults vs).received = s.received := rfl
@[simp] theorem draws_setResults (s : State) (vs : List Word) : (s.setResults vs).draws = s.draws := rfl

/-! ### setPacket -/

@[simp] theorem cmd_setPacket (s : State) (p : Packet) : (s.setPacket p).cmd = s.cmd := rfl
@[simp] theorem arg_setPacket (s : State) (p : Packet) : (s.setPacket p).arg = s.arg := rfl
@[simp] theorem res_setPacket (s : State) (p : Packet) : (s.setPacket p).res = s.res := rfl
@[simp] theorem status_setPacket (s : State) (p : Packet) : (s.setPacket p).status = s.status := rfl
@[simp] theorem inLen_setPacket (s : State) (p : Packet) : (s.setPacket p).inLen = s.inLen := rfl
@[simp] theorem outLen_setPacket (s : State) (p : Packet) : (s.setPacket p).outLen = s.outLen := rfl
@[simp] theorem inBuf_setPacket (s : State) (p : Packet) : (s.setPacket p).inBuf = s.inBuf := rfl
@[simp] theorem outBuf_setPacket (s : State) (p : Packet) : (s.setPacket p).outBuf = s.outBuf := rfl
@[simp] theorem pkt_setPacket (s : State) (p : Packet) : (s.setPacket p).pkt = p := rfl
@[simp] theorem pending_setPacket (s : State) (p : Packet) : (s.setPacket p).pending = s.pending := rfl
@[simp] theorem received_setPacket (s : State) (p : Packet) : (s.setPacket p).received = s.received := rfl
@[simp] theorem draws_setPacket (s : State) (p : Packet) : (s.setPacket p).draws = s.draws := rfl

/-! ### setArg -/

@[simp] theorem cmd_setArg (s : State) (i : Fin 8) (v : Word) : (s.setArg i v).cmd = s.cmd := rfl
@[simp] theorem arg_setArg (s : State) (i : Fin 8) (v : Word) : (s.setArg i v).arg = s.arg.set i v := rfl
@[simp] theorem res_setArg (s : State) (i : Fin 8) (v : Word) : (s.setArg i v).res = s.res := rfl
@[simp] theorem status_setArg (s : State) (i : Fin 8) (v : Word) : (s.setArg i v).status = s.status := rfl
@[simp] theorem inLen_setArg (s : State) (i : Fin 8) (v : Word) : (s.setArg i v).inLen = s.inLen := rfl
@[simp] theorem outLen_setArg (s : State) (i : Fin 8) (v : Word) : (s.setArg i v).outLen = s.outLen := rfl
@[simp] theorem inBuf_setArg (s : State) (i : Fin 8) (v : Word) : (s.setArg i v).inBuf = s.inBuf := rfl
@[simp] theorem outBuf_setArg (s : State) (i : Fin 8) (v : Word) : (s.setArg i v).outBuf = s.outBuf := rfl
@[simp] theorem pkt_setArg (s : State) (i : Fin 8) (v : Word) : (s.setArg i v).pkt = s.pkt := rfl
@[simp] theorem pending_setArg (s : State) (i : Fin 8) (v : Word) : (s.setArg i v).pending = s.pending := rfl
@[simp] theorem received_setArg (s : State) (i : Fin 8) (v : Word) : (s.setArg i v).received = s.received := rfl
@[simp] theorem draws_setArg (s : State) (i : Fin 8) (v : Word) : (s.setArg i v).draws = s.draws := rfl

/-! ### setInLen -/

@[simp] theorem cmd_setInLen (s : State) (v : Word) : (s.setInLen v).cmd = s.cmd := rfl
@[simp] theorem arg_setInLen (s : State) (v : Word) : (s.setInLen v).arg = s.arg := rfl
@[simp] theorem res_setInLen (s : State) (v : Word) : (s.setInLen v).res = s.res := rfl
@[simp] theorem status_setInLen (s : State) (v : Word) : (s.setInLen v).status = s.status := rfl
@[simp] theorem inLen_setInLen (s : State) (v : Word) : (s.setInLen v).inLen = v := rfl
@[simp] theorem outLen_setInLen (s : State) (v : Word) : (s.setInLen v).outLen = s.outLen := rfl
@[simp] theorem inBuf_setInLen (s : State) (v : Word) : (s.setInLen v).inBuf = s.inBuf := rfl
@[simp] theorem outBuf_setInLen (s : State) (v : Word) : (s.setInLen v).outBuf = s.outBuf := rfl
@[simp] theorem pkt_setInLen (s : State) (v : Word) : (s.setInLen v).pkt = s.pkt := rfl
@[simp] theorem pending_setInLen (s : State) (v : Word) : (s.setInLen v).pending = s.pending := rfl
@[simp] theorem received_setInLen (s : State) (v : Word) : (s.setInLen v).received = s.received := rfl
@[simp] theorem draws_setInLen (s : State) (v : Word) : (s.setInLen v).draws = s.draws := rfl

/-! ### setInByte -/

@[simp] theorem cmd_setInByte (s : State) (j : Nat) (b : Byte) : (s.setInByte j b).cmd = s.cmd := rfl
@[simp] theorem arg_setInByte (s : State) (j : Nat) (b : Byte) : (s.setInByte j b).arg = s.arg := rfl
@[simp] theorem res_setInByte (s : State) (j : Nat) (b : Byte) : (s.setInByte j b).res = s.res := rfl
@[simp] theorem status_setInByte (s : State) (j : Nat) (b : Byte) : (s.setInByte j b).status = s.status := rfl
@[simp] theorem inLen_setInByte (s : State) (j : Nat) (b : Byte) : (s.setInByte j b).inLen = s.inLen := rfl
@[simp] theorem outLen_setInByte (s : State) (j : Nat) (b : Byte) : (s.setInByte j b).outLen = s.outLen := rfl
@[simp] theorem inBuf_setInByte (s : State) (j : Nat) (b : Byte) : (s.setInByte j b).inBuf = s.inBuf.write j b := rfl
@[simp] theorem outBuf_setInByte (s : State) (j : Nat) (b : Byte) : (s.setInByte j b).outBuf = s.outBuf := rfl
@[simp] theorem pkt_setInByte (s : State) (j : Nat) (b : Byte) : (s.setInByte j b).pkt = s.pkt := rfl
@[simp] theorem pending_setInByte (s : State) (j : Nat) (b : Byte) : (s.setInByte j b).pending = s.pending := rfl
@[simp] theorem received_setInByte (s : State) (j : Nat) (b : Byte) : (s.setInByte j b).received = s.received := rfl
@[simp] theorem draws_setInByte (s : State) (j : Nat) (b : Byte) : (s.setInByte j b).draws = s.draws := rfl

/-! ### nextDraw -/

@[simp] theorem cmd_nextDraw (s : State) : (s.nextDraw).cmd = s.cmd := rfl
@[simp] theorem arg_nextDraw (s : State) : (s.nextDraw).arg = s.arg := rfl
@[simp] theorem res_nextDraw (s : State) : (s.nextDraw).res = s.res := rfl
@[simp] theorem status_nextDraw (s : State) : (s.nextDraw).status = s.status := rfl
@[simp] theorem inLen_nextDraw (s : State) : (s.nextDraw).inLen = s.inLen := rfl
@[simp] theorem outLen_nextDraw (s : State) : (s.nextDraw).outLen = s.outLen := rfl
@[simp] theorem inBuf_nextDraw (s : State) : (s.nextDraw).inBuf = s.inBuf := rfl
@[simp] theorem outBuf_nextDraw (s : State) : (s.nextDraw).outBuf = s.outBuf := rfl
@[simp] theorem pkt_nextDraw (s : State) : (s.nextDraw).pkt = s.pkt := rfl
@[simp] theorem pending_nextDraw (s : State) : (s.nextDraw).pending = s.pending := rfl
@[simp] theorem received_nextDraw (s : State) : (s.nextDraw).received = s.received := rfl
@[simp] theorem draws_nextDraw (s : State) : (s.nextDraw).draws = s.draws + 1 := rfl

/-! ### emitOut -/

@[simp] theorem cmd_emitOut (s : State) (bytes : List Byte) : (s.emitOut bytes).cmd = s.cmd := rfl
@[simp] theorem arg_emitOut (s : State) (bytes : List Byte) : (s.emitOut bytes).arg = s.arg := rfl
@[simp] theorem res_emitOut (s : State) (bytes : List Byte) : (s.emitOut bytes).res = s.res := rfl
@[simp] theorem status_emitOut (s : State) (bytes : List Byte) : (s.emitOut bytes).status = s.status := rfl
@[simp] theorem inLen_emitOut (s : State) (bytes : List Byte) : (s.emitOut bytes).inLen = s.inLen := rfl
@[simp] theorem outLen_emitOut (s : State) (bytes : List Byte) : (s.emitOut bytes).outLen = BitVec.ofNat 32 bytes.length := rfl
@[simp] theorem inBuf_emitOut (s : State) (bytes : List Byte) : (s.emitOut bytes).inBuf = s.inBuf := rfl
@[simp] theorem outBuf_emitOut (s : State) (bytes : List Byte) : (s.emitOut bytes).outBuf = Memory.ofBytesFrom 0 bytes := rfl
@[simp] theorem pkt_emitOut (s : State) (bytes : List Byte) : (s.emitOut bytes).pkt = s.pkt := rfl
@[simp] theorem pending_emitOut (s : State) (bytes : List Byte) : (s.emitOut bytes).pending = s.pending := rfl
@[simp] theorem received_emitOut (s : State) (bytes : List Byte) : (s.emitOut bytes).received = s.received := rfl
@[simp] theorem draws_emitOut (s : State) (bytes : List Byte) : (s.emitOut bytes).draws = s.draws := rfl

/-! ### receive -/

@[simp] theorem cmd_receive (s : State) (v : Word) : (s.receive v).cmd = s.cmd := rfl
@[simp] theorem arg_receive (s : State) (v : Word) : (s.receive v).arg = s.arg := rfl
@[simp] theorem res_receive (s : State) (v : Word) : (s.receive v).res = s.res := rfl
@[simp] theorem status_receive (s : State) (v : Word) : (s.receive v).status = s.status := rfl
@[simp] theorem inLen_receive (s : State) (v : Word) : (s.receive v).inLen = s.inLen := rfl
@[simp] theorem outLen_receive (s : State) (v : Word) : (s.receive v).outLen = s.outLen := rfl
@[simp] theorem inBuf_receive (s : State) (v : Word) : (s.receive v).inBuf = s.inBuf := rfl
@[simp] theorem outBuf_receive (s : State) (v : Word) : (s.receive v).outBuf = s.outBuf := rfl
@[simp] theorem pkt_receive (s : State) (v : Word) : (s.receive v).pkt = s.pkt := rfl
@[simp] theorem pending_receive (s : State) (v : Word) : (s.receive v).pending = s.pending := rfl
@[simp] theorem received_receive (s : State) (v : Word) : (s.receive v).received = s.received ++ [v] := rfl
@[simp] theorem draws_receive (s : State) (v : Word) : (s.receive v).draws = s.draws := rfl

/-! ### setPending -/

@[simp] theorem cmd_setPending (s : State) (events : List HostEvent) : (s.setPending events).cmd = s.cmd := rfl
@[simp] theorem arg_setPending (s : State) (events : List HostEvent) : (s.setPending events).arg = s.arg := rfl
@[simp] theorem res_setPending (s : State) (events : List HostEvent) : (s.setPending events).res = s.res := rfl
@[simp] theorem status_setPending (s : State) (events : List HostEvent) : (s.setPending events).status = s.status := rfl
@[simp] theorem inLen_setPending (s : State) (events : List HostEvent) : (s.setPending events).inLen = s.inLen := rfl
@[simp] theorem outLen_setPending (s : State) (events : List HostEvent) : (s.setPending events).outLen = s.outLen := rfl
@[simp] theorem inBuf_setPending (s : State) (events : List HostEvent) : (s.setPending events).inBuf = s.inBuf := rfl
@[simp] theorem outBuf_setPending (s : State) (events : List HostEvent) : (s.setPending events).outBuf = s.outBuf := rfl
@[simp] theorem pkt_setPending (s : State) (events : List HostEvent) : (s.setPending events).pkt = s.pkt := rfl
@[simp] theorem pending_setPending (s : State) (events : List HostEvent) : (s.setPending events).pending = events := rfl
@[simp] theorem received_setPending (s : State) (events : List HostEvent) : (s.setPending events).received = s.received := rfl
@[simp] theorem draws_setPending (s : State) (events : List HostEvent) : (s.setPending events).draws = s.draws := rfl

/-- RES`i` after a command wrote the words `vs`. -/
@[simp] theorem res_setResults_get (s : State) (vs : List Word) (i : Fin 8) :
    (s.setResults vs).res[i] = (vs[i.val]?).getD s.res[i] := by
  simp [setResults]

/-- RES at a numeral index after a command wrote the words `vs`. -/
@[simp] theorem res_setResults_getElem (s : State) (vs : List Word) (i : Nat) (h : i < 8) :
    (s.setResults vs).res[i] = (vs[i]?).getD s.res[i] := by
  simp [setResults]

end Sys2Proof.Machine.State
end

