-- ==== Sys2Proof/Laws/Ops.lean ====
section
/-! SUPPORT. What each shared operation does, said once: how a command ends, the input, the output, the operands and the codecs. -/

namespace Sys2Proof.Machine

/-! ### How a command ends -/

/-- All that `finish` can do. -/
theorem finish_eq_next (s t : State) : finish s = .next t ↔ t = { s with status := .ok } := by
  simp [finish, State.setStatus, eq_comm]

/-- All that `raise` can do. -/
theorem raise_eq_next (c : Completion) (s t : State) : raise c s = .next t ↔ t = { s with status := c } := by
  simp [raise, State.setStatus, eq_comm]

theorem onlyStatus_raise (c : Completion) (s : State) : OnlyStatus c s (s.setStatus c) := rfl

theorem onlyStatus_raise_nextDraw (c : Completion) (s : State) : OnlyStatus c s (s.nextDraw.setStatus c) := rfl

/-! ### The input -/

/-- A byte the host has written is no draw. -/
theorem State.inByte_of_read {s : State} {j : Nat} {b : Byte} (h : s.inBuf.read? j = some b) : s.inByte j = b := by
  simp [State.inByte, h]

@[simp] theorem State.length_inSlice (s : State) (lo hi : Nat) : (s.inSlice lo hi).length = hi - lo := by
  simp [State.inSlice]

theorem State.getElem?_inSlice (s : State) (lo hi j : Nat) (h : j < hi - lo) :
    (s.inSlice lo hi)[j]? = some (s.inByte (lo + j)) := by
  simp [State.inSlice, h]

@[simp] theorem State.length_input (s : State) : s.input.length = s.inLen.toNat := by simp [State.input]

theorem State.inSlice_zero (s : State) (n : Nat) : s.inSlice 0 n = (List.range n).map s.inByte := by
  simp [State.inSlice, List.range_eq_range']

/-- A slice depends only on the bytes in it. -/
theorem State.inSlice_congr {s s' : State} {lo hi : Nat} (h : ∀ j, lo ≤ j → j < hi → s'.inByte j = s.inByte j) :
    s'.inSlice lo hi = s.inSlice lo hi := by
  unfold State.inSlice
  apply List.map_congr_left
  intro j hj
  rw [List.mem_range'_1] at hj
  exact h j (by omega) (by omega)

/-- The bytes the host loaded are the bytes a command reads. -/
theorem InputStartsWith.inByte {bytes : List Byte} {s : State} (h : InputStartsWith bytes s) {j : Nat}
    (hj : j < bytes.length) : s.inByte j = bytes[j] :=
  State.inByte_of_read ((h.2 j hj).trans (List.getElem?_eq_getElem hj))

theorem InputIs.startsWith {bytes : List Byte} {s : State} (h : InputIs bytes s) : InputStartsWith bytes s :=
  ⟨h.1.ge, h.2⟩

/-- A slice of loaded bytes is a slice of the list. -/
theorem InputStartsWith.inSlice {bytes : List Byte} {s : State} (h : InputStartsWith bytes s) {lo hi : Nat}
    (hh : hi ≤ bytes.length) : s.inSlice lo hi = (bytes.take hi).drop lo := by
  apply List.ext_getElem?
  intro j
  by_cases hj : j < hi - lo
  · rw [State.getElem?_inSlice _ _ _ _ hj, List.getElem?_drop, List.getElem?_take_of_lt (by omega),
      h.inByte (by omega), List.getElem?_eq_getElem (by omega)]
  · rw [List.getElem?_eq_none (by simp; omega), List.getElem?_eq_none (by simp; omega)]

/-! ### The output -/

/-- What `EmitOut` leaves (20_memory.md R71). -/
theorem outputIs_emitOut (s : State) (bytes : List Byte) (h : bytes.length ≤ 255) : OutputIs bytes (s.emitOut bytes) := by
  have hl : (BitVec.ofNat 32 bytes.length).toNat = bytes.length := by simp; omega
  refine ⟨hl, fun j => ?_⟩
  simp only [State.outByte?, State.outLen_emitOut, State.outBuf_emitOut, Memory.read?_ofBytes, hl]
  split
  · rfl
  · rw [List.getElem?_eq_none (by omega)]

/-- The output determines its bytes. -/
theorem OutputIs.unique {a b : List Byte} {t : State} (ha : OutputIs a t) (hb : OutputIs b t) : a = b :=
  List.ext_getElem? fun j => (ha.2 j).symm.trans (hb.2 j)

/-! ### The codecs' lengths -/

@[simp] theorem length_split16 (v : Half) : (split16 v).length = 2 := rfl

@[simp] theorem length_encodeHeader (h : Header) : (encodeHeader h).length = 4 := rfl

@[simp] theorem length_telemetryBytes (t : Telemetry) : (telemetryBytes t).length = 9 := rfl

@[simp] theorem length_driveBytes (d : DriveBody) : (driveBytes d).length = 3 := rfl

@[simp] theorem Packet.length_body (p : Packet) : p.body.length = p.payload.length + 4 := by
  simp [Packet.body, Nat.add_comm]

@[simp] theorem Packet.length_wire (p : Packet) : p.wire.length = p.payload.length + 5 := by
  simp [Packet.wire]

/-! ### The checksum -/

theorem checksum8_append (a b : List Byte) : checksum8 (a ++ b) = checksum8 a + checksum8 b := by
  simp [checksum8, BitVec.ofNat_add]

theorem toNat_checksum8 (s : List Byte) : (checksum8 s).toNat = (s.map popcount8).sum % 256 := by
  simp [checksum8]

theorem popcount8_le (b : Byte) : popcount8 b ≤ 8 := by
  unfold popcount8
  have h (c : Bool) : c.toNat ≤ 1 := Bool.toNat_le c
  have := h (b.getLsbD 7); have := h (b.getLsbD 6); have := h (b.getLsbD 5); have := h (b.getLsbD 4)
  have := h (b.getLsbD 3); have := h (b.getLsbD 2); have := h (b.getLsbD 1); have := h (b.getLsbD 0)
  omega

/-! ### Telemetry -/

/-- A telemetry record is there exactly where HasTelemetry holds (10_state.md R38). -/
theorem Packet.isSome_telemetry? (p : Packet) : p.telemetry?.isSome = p.hasTelemetry := by
  unfold Packet.telemetry?
  cases hh : p.hasTelemetry with
  | false => rfl
  | true =>
    have hl : p.payload.length = 9 := by
      simp only [Packet.hasTelemetry, Bool.and_eq_true, beq_iff_eq] at hh; exact hh.2
    generalize p.payload = l at hl
    match l, hl with
    | [s0, s1, s2, s3, s4, s5, s6, s7, s8], _ => rfl

end Sys2Proof.Machine
end

