-- ==== Sys2Proof/Laws/Bus.lean ====
section
/-! SUPPORT. Where accesses land, and what one step does with each kind of host event. -/

namespace Sys2Proof.Machine

/-! ### The register map (20_memory.md R53) -/

@[simp] theorem locate_cmd : locate 0x000 4 = .ok .cmd := rfl
@[simp] theorem locate_status : locate 0x004 4 = .ok .status := rfl
@[simp] theorem locate_inLen : locate 0x008 4 = .ok .inLen := rfl
@[simp] theorem locate_outLen : locate 0x00C 4 = .ok .outLen := rfl

theorem locate_arg (i : Fin 8) : locate (0x020 + 4 * i.val) 4 = .ok (.arg i) := by
  revert i; decide

theorem locate_res (i : Fin 8) : locate (0x040 + 4 * i.val) 4 = .ok (.res i) := by
  revert i; decide

theorem locate_inBuf {j : Nat} (h : j < 256) : locate (0x100 + j) 1 = .ok (.inBuf j) := by
  have h1 : reservedOffset (0x100 + j) = false := by simp [reservedOffset]; omega
  simp [locate, Config.windowSize, h1, show ¬(1024 ≤ 256 + j) by omega, show ¬(256 + j < 96) by omega,
    show 256 + j < 512 by omega]

theorem locate_outBuf {j : Nat} (h : j < 256) : locate (0x200 + j) 1 = .ok (.outBuf j) := by
  have h1 : reservedOffset (0x200 + j) = false := by simp [reservedOffset]; omega
  simp [locate, Config.windowSize, h1, show ¬(1024 ≤ 512 + j) by omega, show ¬(512 + j < 96) by omega,
    show ¬(512 + j < 512) by omega]

/-- The buffer indices an admitted access reaches are inside the buffers. -/
theorem locate_inBuf_lt {offset width j : Nat} (h : locate offset width = .ok (.inBuf j)) : j < Config.inBufSize := by
  simp only [locate, registerAt] at h
  repeat' split at h
  all_goals first | (simp at h; done) | (simp at h; simp [Config.inBufSize]; omega)

/-! ### One step, by the host's next event -/

@[simp] theorem step_idle {s : State} (h : s.pending = []) : step s = .next s := by
  simp [step, nextEvent, h]

/-- A step performs the next event, with the rest of the host's program remaining. -/
theorem step_of_pending {s : State} {ev : HostEvent} {rest : List HostEvent} (h : s.pending = ev :: rest) :
    step s = perform exec ev (s.setPending rest) := by
  simp [step, nextEvent, h]

theorem perform_read {offset width : Nat} {loc : Location} (run : Instr → State → Result) (s : State)
    (h : locate offset width = .ok loc) : perform run (.read offset width) s = .next (hostRead loc s) := by
  simp [perform, h]

theorem perform_write {offset width : Nat} {loc : Location} (run : Instr → State → Result) (v : Word) (s : State)
    (h : locate offset width = .ok loc) : perform run (.write offset width v) s = hostWrite run loc v s := by
  simp [perform, h]

theorem perform_read_refused {offset width : Nat} {f : Fault} (run : Instr → State → Result) (s : State)
    (h : locate offset width = .error f) : perform run (.read offset width) s = .fault f := by
  simp [perform, h]

theorem perform_write_refused {offset width : Nat} {f : Fault} (run : Instr → State → Result) (v : Word) (s : State)
    (h : locate offset width = .error f) : perform run (.write offset width v) s = .fault f := by
  simp [perform, h]

/-- All that a host read can do: one more received word, and a draw used up at most. -/
theorem hostRead_cases (loc : Location) (s : State) :
    ∃ (v : Word) (d : Nat), hostRead loc s = { s with received := s.received ++ [v], draws := d } := by
  cases loc with
  | inBuf j =>
    simp only [hostRead, State.receiveByte]
    split <;> exact ⟨_, _, rfl⟩
  | outBuf j =>
    simp only [hostRead, State.receiveByte]
    split <;> exact ⟨_, _, rfl⟩
  | _ => exact ⟨_, s.draws, rfl⟩

/-- All that a host write other than to CMD can do. -/
theorem hostWrite_cases {run : Instr → State → Result} {loc : Location} {v : Word} {s t : State}
    (hc : loc ≠ .cmd) (h : hostWrite run loc v s = .next t) :
    t = s ∨ (loc = .inLen ∧ v.toNat ≤ Config.inBufSize ∧ t = s.setInLen v) ∨ (∃ i, t = s.setArg i v) ∨
      (∃ j, loc = .inBuf j ∧ t = s.setInByte j (v.setWidth 8)) := by
  cases loc with
  | cmd => exact absurd rfl hc
  | inLen =>
    simp only [hostWrite] at h
    split at h
    · cases h
    · next hv => cases h; exact .inr (.inl ⟨rfl, by omega, rfl⟩)
  | arg i => cases h; exact .inr (.inr (.inl ⟨i, rfl⟩))
  | inBuf j => cases h; exact .inr (.inr (.inr ⟨j, rfl, rfl⟩))
  | _ => cases h; exact .inl rfl

/-- All that a write to CMD can do: run the command the word selects, or raise ILLEGAL_COMMAND. -/
theorem issueCommand_cases (run : Instr → State → Result) (w : Word) (s : State) :
    (∃ i, decode w = .ok i ∧ issueCommand run w s = run i (s.setCmd w)) ∨
      (∃ e, decode w = .error e ∧ issueCommand run w s = .next ((s.setCmd w).setStatus .illegalCommand)) := by
  unfold issueCommand
  cases h : decode w with
  | ok i => exact .inl ⟨i, rfl, rfl⟩
  | error e => exact .inr ⟨e, rfl, rfl⟩

end Sys2Proof.Machine
end

