-- ==== Sys2Proof/Laws/Exec.lean ====
section
/-! SUPPORT. The commands that check before they act, by their cases: the checks of 60_exceptions.md R234 and the state a success
leaves, so that no later proof unfolds a meaning. -/

namespace Sys2Proof.Machine

theorem execParse_malformed {s : State} (h : s.inLen.toNat < 4) : execParse s = .next (s.setStatus .malformedHeader) := by
  simp [execParse, h, raise]

theorem execParse_invalid {s : State} (h4 : 4 ≤ s.inLen.toNat) (h5 : (s.inByte 3).toNat < 5) :
    execParse s = .next (s.nextDraw.setStatus .invalidLength) := by
  simp [execParse, raise, decodeHeader, h5, show ¬(s.inLen.toNat < 4) by omega]

theorem execParse_truncated {s : State} (h4 : 4 ≤ s.inLen.toNat) (h5 : 5 ≤ (s.inByte 3).toNat)
    (hl : s.inLen.toNat < (s.inByte 3).toNat) : execParse s = .next (s.nextDraw.setStatus .truncatedPacket) := by
  simp [execParse, raise, decodeHeader, show ¬((s.inByte 3).toNat < 5) by omega, show ¬(s.inLen.toNat < 4) by omega, hl]

/-- A PARSE that passes its checks. -/
theorem execParse_ok {s : State} (h5 : 5 ≤ (s.inByte 3).toNat) (hl : (s.inByte 3).toNat ≤ s.inLen.toNat) :
    execParse s = .next ((s.nextDraw.setPacket
      { header := decodeHeader (s.inByte 0) (s.inByte 1) (s.inByte 2) (s.inByte 3)
        payload := s.inSlice 4 ((s.inByte 3).toNat - 1)
        checksum := s.inByte ((s.inByte 3).toNat - 1) }).setStatus .ok) := by
  simp [execParse, finish, decodeHeader, show ¬((s.inByte 3).toNat < 5) by omega, show ¬(s.inLen.toNat < 4) by omega,
    show ¬(s.inLen.toNat < (s.inByte 3).toNat) by omega]

theorem execSetCommand_ok {s : State} (h : s.argFull 0 ≤ 2) :
    execSetCommand s =
      .next ((s.setPacket { s.pkt with header := s.pkt.header.withTag (s.argFull 0) }).setStatus .ok) := by
  simp [execSetCommand, finish, show ¬(2 < s.argFull 0) by omega]

theorem execSetCommand_invalid {s : State} (h : 2 < s.argFull 0) :
    execSetCommand s = .next (s.setStatus .invalidOperand) := by
  simp [execSetCommand, raise, h]

theorem execSetPayload_ok {s : State} (h : s.inLen.toNat ≤ 250) :
    execSetPayload s = .next ((s.nextDraw.setPacket (s.pkt.withPayload s.input)).setStatus .ok) := by
  simp [execSetPayload, finish, Config.payloadCap, show ¬(250 < s.inLen.toNat) by omega]

theorem execSetPayload_tooLarge {s : State} (h : 250 < s.inLen.toNat) :
    execSetPayload s = .next (s.setStatus .payloadTooLarge) := by
  simp [execSetPayload, raise, Config.payloadCap, h]

theorem execGetTelemetry_some {s : State} {r : Telemetry} (h : s.pkt.telemetry? = some r) :
    execGetTelemetry s = .next ((s.setResults (telemetryResults r)).setStatus .ok) := by
  simp [execGetTelemetry, finish, h]

theorem execGetTelemetry_none {s : State} (h : s.pkt.telemetry? = none) :
    execGetTelemetry s = .next (s.setStatus .noTelemetry) := by
  simp [execGetTelemetry, raise, h]

theorem execSerialize_ok {s : State} (h : 5 ≤ s.pkt.header.length.toNat) :
    execSerialize s = .next (((s.setPacket { s.pkt with checksum := checksum8 s.pkt.body }).emitOut
      s.pkt.wire).setStatus .ok) := by
  simp [execSerialize, finish, show ¬(s.pkt.header.length.toNat < 5) by omega]

theorem execSerialize_invalid {s : State} (h : s.pkt.header.length.toNat < 5) :
    execSerialize s = .next (s.setStatus .invalidLength) := by
  simp [execSerialize, raise, h]

theorem execHdrDecode_malformed {s : State} (h : s.inLen.toNat < 4) :
    execHdrDecode s = .next (s.setStatus .malformedHeader) := by
  simp [execHdrDecode, h, raise]

theorem execHdrDecode_ok {s : State} (h : 4 ≤ s.inLen.toNat) :
    execHdrDecode s = .next ((s.nextDraw.setResults
      [zext32 (be16 (s.inByte 0) (s.inByte 1)), boolWord ((s.inByte 2).getLsbD 7), boolWord ((s.inByte 2).getLsbD 6),
        boolWord ((s.inByte 2).getLsbD 5), boolWord ((s.inByte 2).getLsbD 4), zext32 ((s.inByte 2).extractLsb' 0 4),
        zext32 (s.inByte 3)]).setStatus .ok) := by
  simp [execHdrDecode, finish, decodeHeader, show ¬(s.inLen.toNat < 4) by omega]

theorem execCkVerify_truncated {s : State} (h : s.inLen.toNat ≤ s.argFull 0) :
    execCkVerify s = .next (s.setStatus .truncatedPacket) := by
  simp [execCkVerify, raise, h]

theorem execCkVerify_ok {s : State} (h : s.argFull 0 < s.inLen.toNat) :
    execCkVerify s = .next ((s.nextDraw.setResults
      [boolWord (checksum8 (s.inSlice 0 (s.argFull 0)) == s.inByte (s.argFull 0)),
        zext32 (checksum8 (s.inSlice 0 (s.argFull 0)))]).setStatus .ok) := by
  simp [execCkVerify, finish, show ¬(s.inLen.toNat ≤ s.argFull 0) by omega]

theorem execDriveDecode_ok {s : State} (h : s.inLen.toNat = 3) :
    execDriveDecode s =
      .next ((s.nextDraw.setResults [zext32 (s.inByte 0), zext32 (s.inByte 1), zext32 (s.inByte 2)]).setStatus .ok) := by
  simp [execDriveDecode, finish, driveFields, h]

theorem execDriveDecode_size {s : State} (h : s.inLen.toNat ≠ 3) :
    execDriveDecode s = .next (s.setStatus .invalidPayloadSize) := by
  simp [execDriveDecode, raise, h]

theorem execTelemDecode_ok {s : State} (h : s.inLen.toNat = 9) :
    execTelemDecode s = .next ((s.nextDraw.setResults (telemetryResults
      (telemetryFields (s.inByte 0) (s.inByte 1) (s.inByte 2) (s.inByte 3) (s.inByte 4) (s.inByte 5) (s.inByte 6)
        (s.inByte 7) (s.inByte 8)))).setStatus .ok) := by
  simp [execTelemDecode, finish, h]

theorem execTelemDecode_size {s : State} (h : s.inLen.toNat ≠ 9) :
    execTelemDecode s = .next (s.setStatus .invalidPayloadSize) := by
  simp [execTelemDecode, raise, h]

end Sys2Proof.Machine
end

