-- ==== Sys2Proof/Laws/Operands.lean ====
section
/-! SUPPORT. The operand and result primitives as numbers. -/

namespace Sys2Proof.Machine

theorem toNat_be16 (hi lo : Byte) : (be16 hi lo).toNat = hi.toNat * 256 + lo.toNat := by
  unfold be16
  rw [BitVec.toNat_append, ← Nat.shiftLeft_add_eq_or_of_lt lo.isLt, Nat.shiftLeft_eq]

/-- The two bytes of a 16-bit field, big-endian (20_memory.md R61). -/
theorem split16_eq (v : Half) : split16 v = [BitVec.ofNat 8 (v.toNat / 256), BitVec.ofNat 8 v.toNat] := by
  unfold split16
  congr 1
  · apply BitVec.eq_of_toNat_eq
    simp [BitVec.extractLsb'_toNat, Nat.shiftRight_eq_div_pow]

@[simp] theorem toNat_boolWord (b : Bool) : (boolWord b).toNat = b.toNat := by cases b <;> rfl

/-- Zero-extension keeps the number (30_encoding.md R96). -/
theorem toNat_zext32 {w : Nat} (v : BitVec w) (h : w ≤ 32) : (zext32 v).toNat = v.toNat := by
  unfold zext32
  rw [BitVec.toNat_setWidth]
  exact Nat.mod_eq_of_lt (lt_of_lt_of_le v.isLt (Nat.pow_le_pow_right (by decide) h))

/-- A numeric operand is the register modulo 2^w (30_encoding.md R95). -/
theorem State.toNat_argField (s : State) (i : Fin 8) (w : Nat) : (s.argField i w).toNat = s.arg[i].toNat % 2 ^ w := by
  simp [State.argField]

theorem toNat_lowBit (w : Word) : (w.getLsbD 0).toNat = w.toNat % 2 := by
  simp only [BitVec.getLsbD, Nat.testBit_zero]
  rcases Nat.mod_two_eq_zero_or_one w.toNat with h | h <;> simp [h]

/-- A 1-bit operand is the register modulo 2 (30_encoding.md R95). -/
theorem State.toNat_argFlag (s : State) (i : Fin 8) : (s.argFlag i).toNat = s.arg[i].toNat % 2 :=
  toNat_lowBit s.arg[i]

end Sys2Proof.Machine
end

