-- ==== Sys2Proof/Laws/PerInstr.lean ====
section
/-! SUPPORT. Statements about each command as syntax, one lemma per constructor. -/

namespace Sys2Proof.Laws.CommandWordShape

/-- The command word has format C32 (30_encoding.md R80): RSV is 0 and OPC is the command's opcode, so the word is a
well-formed one. -/
def Statement (i : Instr) : Prop :=
  rsvField (encode i) = 0#24 ∧ opcField (encode i) = opcode i ∧ wordWellFormed (encode i) = true

theorem new : Statement .new := ⟨by decide, by decide, by decide⟩
theorem parse : Statement .parse := ⟨by decide, by decide, by decide⟩
theorem serialize : Statement .serialize := ⟨by decide, by decide, by decide⟩
theorem setCommand : Statement .setCommand := ⟨by decide, by decide, by decide⟩
theorem setPayload : Statement .setPayload := ⟨by decide, by decide, by decide⟩
theorem setPacketCount : Statement .setPacketCount := ⟨by decide, by decide, by decide⟩
theorem setTelemetry : Statement .setTelemetry := ⟨by decide, by decide, by decide⟩
theorem getCommand : Statement .getCommand := ⟨by decide, by decide, by decide⟩
theorem getAck : Statement .getAck := ⟨by decide, by decide, by decide⟩
theorem getLength : Statement .getLength := ⟨by decide, by decide, by decide⟩
theorem getPayload : Statement .getPayload := ⟨by decide, by decide, by decide⟩
theorem getPacketCount : Statement .getPacketCount := ⟨by decide, by decide, by decide⟩
theorem hasTelemetry : Statement .hasTelemetry := ⟨by decide, by decide, by decide⟩
theorem getTelemetry : Statement .getTelemetry := ⟨by decide, by decide, by decide⟩
theorem getChecksum : Statement .getChecksum := ⟨by decide, by decide, by decide⟩
theorem hdrDecode : Statement .hdrDecode := ⟨by decide, by decide, by decide⟩
theorem hdrEncode : Statement .hdrEncode := ⟨by decide, by decide, by decide⟩
theorem ckCompute : Statement .ckCompute := ⟨by decide, by decide, by decide⟩
theorem ckVerify : Statement .ckVerify := ⟨by decide, by decide, by decide⟩
theorem driveDecode : Statement .driveDecode := ⟨by decide, by decide, by decide⟩
theorem driveEncode : Statement .driveEncode := ⟨by decide, by decide, by decide⟩
theorem telemDecode : Statement .telemDecode := ⟨by decide, by decide, by decide⟩
theorem telemEncode : Statement .telemEncode := ⟨by decide, by decide, by decide⟩

end Sys2Proof.Laws.CommandWordShape
end

