-- ==== Sys2Proof/Tests/Slice0.lean ====
section
/-! SUPPORT. The model's own tests: expected values are from spec/ (95_test_vectors.md by vector id, or the rule named), and one
witness for the hypotheses of each statement that has some. -/

namespace Sys2Proof.Tests

open Sys2Proof.Machine

/-! ### Helpers -/

/-- The result is a next state that passes the check. -/
def nextIs (o : Result) (check : State → Bool) : Bool :=
  match o with
  | .next t => check t
  | .fault _ => false
  | .refused _ => false

/-- The result is this fault. -/
def faultIs (o : Result) (f : Fault) : Bool :=
  match o with
  | .next _ => false
  | .fault g => f == g
  | .refused _ => false

/-- The host has loaded these bytes: `in.load` (30_encoding.md R100). -/
def load (bytes : List Byte) (s : State) : State :=
  { s with inBuf := Memory.ofBytesFrom 0 bytes, inLen := BitVec.ofNat 32 bytes.length }

/-- The host has written these operands from ARG0 on. -/
def args (vs : List Word) (s : State) : State := { s with arg := Vector.ofFn fun i => (vs[i.val]?).getD 0#32 }

/-- The host is about to issue these events. -/
def issuing (events : List HostEvent) (s : State) : State := { s with pending := events }

/-- A packet with the given flags in the order drive, status, sleep, ack. -/
def packet (count : Half) (drive status sleep ack : Bool) (pad : BitVec 4) (length : Byte) (payload : List Byte)
    (checksum : Byte) : Packet :=
  { header :=
      { count := count, drive := drive, status := status, sleep := sleep, ack := ack, pad := pad, length := length }
    payload := payload
    checksum := checksum }

/-- The packet of vector V1 before SERIALIZE. -/
def v1 : Packet := packet 1234#16 true false false false 0#4 8#8 [4#8, 10#8, 100#8] 0#8

/-- The wire bytes of vector V1. -/
def v1Wire : List Byte := [0x04#8, 0xD2#8, 0x80#8, 0x08#8, 0x04#8, 0x0A#8, 0x64#8, 0x0D#8]

/-- The telemetry payload of vector V3. -/
def telemetryRecord : List Byte := [0x02#8, 0x2B#8, 0x00#8, 0x50#8, 0x00#8, 0x04#8, 0x01#8, 0x03#8, 0x5F#8]

/-- The packet of vector PA-9. -/
def pa9 : Packet := packet 0xABCD#16 false true false true 15#4 14#8 telemetryRecord 0x99#8

/-- The reset state holding a packet. -/
def holding (p : Packet) : State := { State.reset with pkt := p }

/-! ### Decoding: words written out from 30_encoding.md R80 (RSV = 0 in [31:8], OPC in [7:0]) and R82 -/

theorem test_decode_packet_codec :
    decode 0b00000000000000000000000000000001#32 = .ok .new ∧
    decode 0b00000000000000000000000000000010#32 = .ok .parse ∧
    decode 0b00000000000000000000000000000011#32 = .ok .serialize ∧
    decode 0b00000000000000000000000000010000#32 = .ok .setCommand ∧
    decode 0b00000000000000000000000000010001#32 = .ok .setPayload ∧
    decode 0b00000000000000000000000000010010#32 = .ok .setPacketCount ∧
    decode 0b00000000000000000000000000010011#32 = .ok .setTelemetry ∧
    decode 0b00000000000000000000000000100000#32 = .ok .getCommand ∧
    decode 0b00000000000000000000000000100001#32 = .ok .getAck ∧
    decode 0b00000000000000000000000000100010#32 = .ok .getLength ∧
    decode 0b00000000000000000000000000100011#32 = .ok .getPayload ∧
    decode 0b00000000000000000000000000100100#32 = .ok .getPacketCount ∧
    decode 0b00000000000000000000000000100101#32 = .ok .hasTelemetry ∧
    decode 0b00000000000000000000000000100110#32 = .ok .getTelemetry ∧
    decode 0b00000000000000000000000000100111#32 = .ok .getChecksum :=
  ⟨rfl, rfl, rfl, rfl, rfl, rfl, rfl, rfl, rfl, rfl, rfl, rfl, rfl, rfl, rfl⟩

theorem test_decode_header_codec :
    decode 0b00000000000000000000000000110000#32 = .ok .hdrDecode ∧
    decode 0b00000000000000000000000000110001#32 = .ok .hdrEncode := ⟨rfl, rfl⟩

theorem test_decode_checksum :
    decode 0b00000000000000000000000001000000#32 = .ok .ckCompute ∧
    decode 0b00000000000000000000000001000001#32 = .ok .ckVerify := ⟨rfl, rfl⟩

theorem test_decode_payload :
    decode 0b00000000000000000000000001010000#32 = .ok .driveDecode ∧
    decode 0b00000000000000000000000001010001#32 = .ok .driveEncode ∧
    decode 0b00000000000000000000000001010010#32 = .ok .telemDecode ∧
    decode 0b00000000000000000000000001010011#32 = .ok .telemEncode := ⟨rfl, rfl, rfl, rfl⟩

/-- DEC-6, DEC-8 and DEC-1, DEC-4: rejected by name. -/
theorem test_decode_rejects_by_name :
    decode 0x00000100#32 = .error (.reservedBitsSet 1#24) ∧
    decode 0x80000001#32 = .error (.reservedBitsSet 0x800000#24) ∧
    decode 0x00000000#32 = .error (.reservedOpcode 0x00#8) ∧
    decode 0x00000054#32 = .error (.reservedOpcode 0x54#8) := ⟨rfl, rfl, rfl, rfl⟩

theorem test_decodeTableWord :
    decodeTableWord 32 0x53 = some .telemEncode ∧ decodeTableWord 32 0x28 = none ∧
    decodeTableWord 32 0x100000001 = some .new := by decide

/-! ### Well-formedness smoke: an ill-formed word for each check (30_encoding.md R84, R98) -/

theorem test_wellFormed_refuses_reserved_bits :
    wordWellFormed 0x00000103#32 = false ∧ wordWellFormed 0x80000001#32 = false ∧ wordWellFormed 0x00000003#32 = true := by
  decide

theorem test_wellFormed_refuses_reserved_opcodes :
    wordWellFormed 0x00#32 = false ∧ wordWellFormed 0x04#32 = false ∧ wordWellFormed 0x0F#32 = false ∧
    wordWellFormed 0x14#32 = false ∧ wordWellFormed 0x1F#32 = false ∧ wordWellFormed 0x28#32 = false ∧
    wordWellFormed 0x2F#32 = false ∧ wordWellFormed 0x32#32 = false ∧ wordWellFormed 0x3F#32 = false ∧
    wordWellFormed 0x42#32 = false ∧ wordWellFormed 0x4F#32 = false ∧ wordWellFormed 0x54#32 = false ∧
    wordWellFormed 0xFF#32 = false := by decide

/-! ### The host interface -/

/-- The first step after reset runs the command placed there; CMD reads back the word (ACC-10). -/
theorem test_first_step_runs_command :
    nextIs (step (State.reset.withFetchWord 32 0x41))
      (fun t => t.cmd == 0x41#32 && t.status == .truncatedPacket && t.pending == []) = true := by decide

/-- DEC-7: RSV is not 0, so SERIALIZE does not run. -/
theorem test_illegal_word :
    nextIs (step (State.reset.withFetchWord 32 0x103))
      (fun t => t == { State.reset with cmd := 0x103#32, status := .illegalCommand }) = true := by decide

/-- ACC-1 and ACC-2. -/
theorem test_inLen_write :
    nextIs (step (issuing [.write 0x008 4 256#32] .reset)) (fun t => t.inLen == 256#32) = true ∧
    faultIs (step (issuing [.write 0x008 4 257#32] .reset)) .inLenTooLarge = true := by decide

/-- ACC-3 to ACC-6, and an address beyond the window (20_memory.md R50). -/
theorem test_refused_accesses :
    locate 0x020 2 = .error .wrongWidth ∧ locate 0x022 4 = .error .misaligned ∧ locate 0x100 4 = .error .wrongWidth ∧
    locate 0x010 4 = .error .reservedOffset ∧ locate 0x060 4 = .error .reservedOffset ∧
    locate 0x300 1 = .error .reservedOffset ∧ locate 0x400 4 = .error .outsideWindow := ⟨rfl, rfl, rfl, rfl, rfl, rfl, rfl⟩

/-- The ends of the register map (20_memory.md R53). -/
theorem test_register_map :
    locate 0x00C 4 = .ok .outLen ∧ locate 0x020 4 = .ok (.arg 0) ∧ locate 0x03C 4 = .ok (.arg 7) ∧
    locate 0x040 4 = .ok (.res 0) ∧ locate 0x05C 4 = .ok (.res 7) ∧ locate 0x100 1 = .ok (.inBuf 0) ∧
    locate 0x1FF 1 = .ok (.inBuf 255) ∧ locate 0x200 1 = .ok (.outBuf 0) ∧ locate 0x2FF 1 = .ok (.outBuf 255) :=
  ⟨rfl, rfl, rfl, rfl, rfl, rfl, rfl, rfl, rfl⟩

/-- ACC-7 and ACC-8: ignored writes. -/
theorem test_ignored_writes :
    nextIs (step (issuing [.write 0x004 4 5#32] .reset)) (fun t => t == .reset) = true ∧
    nextIs (step (issuing [.write 0x200 1 1#32] .reset)) (fun t => t == .reset) = true := by decide

/-- ACC-9: a read at an index >= OUT_LEN is a draw, and uses one up (20_memory.md R57 b). -/
theorem test_read_beyond_outLen_is_a_draw :
    step (issuing [.read 0x205 1] (.reset)) =
      .next { State.reset with received := [zext32 (Config.drawByte 0 5)], draws := 1 } := rfl

/-- P1 step 4, one byte of it: a W8 to IN_BUF stores, and STATUS reads as the code (10_state.md R23). -/
theorem test_byte_write_and_status_read :
    nextIs (step (issuing [.write 0x101 1 0x0A#32] .reset)) (fun t => t.inBuf == [(1, 0x0A#8)]) = true ∧
    nextIs (step (issuing [.read 0x004 4] { State.reset with status := .noTelemetry })) (fun t => t.received == [8#32]) = true := by
  decide

/-- 70_reset_and_hazards.md R263: nothing survives a reset pulse. -/
theorem test_reset_pulse :
    nextIs (step (issuing [.reset] (load [1#8] (args [7#32] (holding v1))))) (fun t => t == .reset) = true := by decide

/-- P1 step 1: the expansion of SET_PACKET_COUNT 1234 (30_encoding.md R99). -/
theorem test_assemble :
    assemble .setPacketCount [1234#32] = [.write 0x020 4 0x000004D2#32, .write 0x000 4 0x00000012#32] := by decide

/-! ### Packet codec -/

/-- 42_packet_codec.md R130: the packet is empty, and OUT, IN and ARG stay. -/
theorem test_new :
    nextIs (exec .new (load [1#8] (args [7#32] (holding pa9))))
      (fun t => t == load [1#8] (args [7#32] .reset)) = true := by decide

/-- PA-9. -/
theorem test_parse_pa9 :
    nextIs (exec .parse (load ([0xAB#8, 0xCD#8, 0x5F#8, 0x0E#8] ++ telemetryRecord ++ [0x99#8]) .reset))
      (fun t => t.pkt == pa9 && t.status == .ok) = true := by decide

/-- PA-2, PA-4 and PA-1: the three failures, after PA-9 (PA-12: the context stays). -/
theorem test_parse_failures :
    nextIs (exec .parse (load [0x00#8, 0x01#8, 0x80#8, 0x04#8] (holding pa9)))
      (fun t => t.pkt == pa9 && t.status == .invalidLength) = true ∧
    nextIs (exec .parse (load [0x00#8, 0x01#8, 0x80#8, 0x05#8] (holding pa9)))
      (fun t => t.pkt == pa9 && t.status == .truncatedPacket) = true ∧
    nextIs (exec .parse (load [0x00#8, 0x01#8, 0x02#8] (holding pa9)))
      (fun t => t.pkt == pa9 && t.status == .malformedHeader) = true := by decide

/-- V1. -/
theorem test_serialize_v1 :
    nextIs (exec .serialize (holding v1))
      (fun t => t.outBuf == Memory.ofBytesFrom 0 v1Wire && t.outLen == 8#32 && t.pkt.checksum == 0x0D#8) = true := by decide

/-- SE-1, and SE-3: the checksum is recomputed. -/
theorem test_serialize_empty_and_multi_tag :
    nextIs (exec .serialize .reset) (fun t => t == { State.reset with status := .invalidLength }) = true ∧
    nextIs (exec .serialize (holding (packet 0x1234#16 true true true false 5#4 5#8 [] 0x77#8)))
      (fun t => t.outBuf == Memory.ofBytesFrom 0 [0x12#8, 0x34#8, 0xE5#8, 0x05#8, 0x0C#8] && t.pkt.checksum == 0x0C#8) =
        true := by decide

/-- MU-7 (with tag 1). -/
theorem test_setCommand :
    nextIs (exec .setCommand (args [1#32] (holding (packet 0x1234#16 true true true false 5#4 5#8 [] 0x77#8))))
      (fun t => t.pkt == packet 0x1234#16 false true false false 5#4 5#8 [] 0x77#8) = true := by decide

/-- MU-6: compared in full, not truncated. -/
theorem test_setCommand_invalid :
    nextIs (exec .setCommand (args [0x100#32] (holding v1))) (fun t => t.pkt == v1 && t.status == .invalidOperand) = true := by
  decide

/-- 42_packet_codec.md R140's example. -/
theorem test_setPayload :
    nextIs (exec .setPayload (load [4#8, 10#8, 100#8] .reset))
      (fun t => t.pkt.payload == [4#8, 10#8, 100#8] && t.pkt.header.length == 8#8) = true := by decide

/-- MU-10. -/
theorem test_setPayload_tooLarge :
    nextIs (exec .setPayload { holding v1 with inLen := 251#32 }) (fun t => t.pkt == v1 && t.status == .payloadTooLarge) = true := by
  decide

/-- MU-12: 70000. -/
theorem test_setPacketCount :
    nextIs (exec .setPacketCount (args [70000#32] (holding v1)))
      (fun t => t.pkt == packet 4464#16 true false false false 0#4 8#8 [4#8, 10#8, 100#8] 0#8) = true := by decide

/-- MU-13. -/
theorem test_setTelemetry :
    nextIs (exec .setTelemetry (args [65536#32, 0x12345#32, 65535#32, 256#32, 511#32, 0#32] .reset))
      (fun t => t.pkt ==
        packet 0#16 false true false false 0#4 14#8 [0#8, 0#8, 0x23#8, 0x45#8, 0xFF#8, 0xFF#8, 0#8, 0xFF#8, 0#8] 0#8) = true := by
  decide

/-- GC-5 and GC-3. -/
theorem test_getCommand :
    nextIs (exec .getCommand (holding (packet 0#16 true false true false 0#4 5#8 [] 0#8))) (fun t => t.res[0] == 0#32) = true ∧
    nextIs (exec .getCommand (holding (packet 0#16 false true true false 0#4 5#8 [] 0#8))) (fun t => t.res[0] == 2#32) = true := by
  decide

/-- AC-6. -/
theorem test_getAck : nextIs (exec .getAck (holding pa9)) (fun t => t.res[0] == 1#32 && t.res[1] == 0#32) = true := by decide

/-- 42_packet_codec.md R148's example. -/
theorem test_getLength : nextIs (exec .getLength (holding v1)) (fun t => t.res[0] == 8#32) = true := by decide

/-- AC-12. -/
theorem test_getPayload :
    nextIs (exec .getPayload (holding v1))
      (fun t => t.outLen == 3#32 && t.outByte? 2 == some 100#8 && t.outByte? 3 == none) = true := by decide

theorem test_getPacketCount : nextIs (exec .getPacketCount (holding v1)) (fun t => t.res[0] == 1234#32) = true := by decide

/-- PA-10: Drive is ignored. -/
theorem test_hasTelemetry :
    nextIs (exec .hasTelemetry (holding (packet 0#16 true true false false 0#4 14#8 (List.replicate 9 0#8) 2#8)))
      (fun t => t.res[0] == 1#32) = true ∧
    nextIs (exec .hasTelemetry .reset) (fun t => t.res[0] == 0#32) = true := by decide

/-- AC-7. -/
theorem test_getTelemetry :
    nextIs (exec .getTelemetry (holding pa9)) (fun t => t.res == #v[555#32, 80#32, 4#32, 1#32, 3#32, 95#32, 0#32, 0#32]) = true := by
  decide

/-- AC-5. -/
theorem test_getTelemetry_none :
    nextIs (exec .getTelemetry .reset) (fun t => t == { State.reset with status := .noTelemetry }) = true := by decide

/-- AC-8. -/
theorem test_getChecksum : nextIs (exec .getChecksum (holding pa9)) (fun t => t.res[0] == 0x99#32) = true := by decide

/-! ### Header codec -/

/-- HD-4. -/
theorem test_hdrDecode :
    nextIs (exec .hdrDecode (load [0x12#8, 0x34#8, 0x5A#8, 0x0E#8, 0x99#8] .reset))
      (fun t => t.res == #v[4660#32, 0#32, 1#32, 0#32, 1#32, 10#32, 14#32, 0#32]) = true := by decide

/-- HD-6. -/
theorem test_hdrDecode_malformed :
    nextIs (exec .hdrDecode (load [1#8, 2#8, 3#8] .reset))
      (fun t => t.res == State.reset.res && t.status == .malformedHeader) = true := by decide

/-- HE-3. -/
theorem test_hdrEncode :
    nextIs (exec .hdrEncode (args [65536#32, 2#32, 3#32, 0#32, 1#32, 0x1A#32, 0x105#32] .reset))
      (fun t => t.outBuf == Memory.ofBytesFrom 0 [0x00#8, 0x00#8, 0x5A#8, 0x05#8] && t.outLen == 4#32) = true := by decide

/-- HE-4. -/
theorem test_hdrEncode_status :
    nextIs (exec .hdrEncode (args [0x1FFFF#32, 0#32, 1#32, 0#32, 1#32, 9#32, 14#32] .reset))
      (fun t => t.outBuf == Memory.ofBytesFrom 0 [0xFF#8, 0xFF#8, 0x59#8, 0x0E#8]) = true := by decide

/-! ### Checksum engine -/

/-- CK-4; and CK-8: 32 bytes of FF wrap. -/
theorem test_ckCompute :
    nextIs (exec .ckCompute (load (v1Wire.take 7) .reset)) (fun t => t.res[0] == 13#32) = true ∧
    nextIs (exec .ckCompute (load (List.replicate 32 0xFF#8) .reset)) (fun t => t.res[0] == 0#32) = true := by decide

/-- CV-1 and CV-2. -/
theorem test_ckVerify :
    nextIs (exec .ckVerify (args [7#32] (load v1Wire .reset)))
      (fun t => t.res[0] == 1#32 && t.res[1] == 13#32 && t.status == .ok) = true ∧
    nextIs (exec .ckVerify (args [7#32] (load (v1Wire.take 7 ++ [0x0C#8]) .reset)))
      (fun t => t.res[0] == 0#32 && t.res[1] == 13#32 && t.status == .ok) = true := by decide

/-- CV-3 and CV-12. -/
theorem test_ckVerify_outside :
    nextIs (exec .ckVerify (args [8#32] (load v1Wire .reset))) (fun t => t.status == .truncatedPacket) = true ∧
    nextIs (exec .ckVerify (args [0xFFFFFFFF#32] (load v1Wire .reset))) (fun t => t.status == .truncatedPacket) = true := by decide

/-- A byte the host never wrote is a draw of the command (20_memory.md R57 a, R70). -/
theorem test_unwritten_input_is_a_draw :
    exec .ckCompute { State.reset with inLen := 1#32, draws := 6 } =
      .next (({ State.reset with inLen := 1#32, draws := 7 }).setResults [zext32 (checksum8 [Config.drawByte 6 0])]) := rfl

/-! ### Payload interpreters -/

/-- PI-1. -/
theorem test_driveDecode :
    nextIs (exec .driveDecode (load [4#8, 0x0A#8, 0x64#8] .reset))
      (fun t => t.res == #v[4#32, 10#32, 100#32, 0#32, 0#32, 0#32, 0#32, 0#32]) = true := by decide

/-- PI-4. -/
theorem test_driveDecode_size :
    nextIs (exec .driveDecode (load [1#8, 2#8, 3#8, 4#8] .reset)) (fun t => t.status == .invalidPayloadSize) = true ∧
    nextIs (exec .driveDecode .reset) (fun t => t.status == .invalidPayloadSize) = true := by decide

/-- PI-6. -/
theorem test_driveEncode :
    nextIs (exec .driveEncode (args [260#32, 261#32, 511#32] .reset))
      (fun t => t.outBuf == Memory.ofBytesFrom 0 [4#8, 5#8, 0xFF#8] && t.outLen == 3#32) = true := by decide

/-- PI-8. -/
theorem test_telemDecode :
    nextIs (exec .telemDecode (load telemetryRecord .reset))
      (fun t => t.res == #v[555#32, 80#32, 4#32, 1#32, 3#32, 95#32, 0#32, 0#32]) = true := by decide

/-- PI-11. -/
theorem test_telemDecode_size :
    nextIs (exec .telemDecode (load (telemetryRecord.take 8) .reset)) (fun t => t.status == .invalidPayloadSize) = true ∧
    nextIs (exec .telemDecode (load (0#8 :: telemetryRecord) .reset)) (fun t => t.status == .invalidPayloadSize) = true := by decide

/-- PI-13. -/
theorem test_telemEncode :
    nextIs (exec .telemEncode (args [65536#32, 0x12345#32, 65535#32, 256#32, 511#32, 0#32] (holding v1)))
      (fun t => t.outBuf == Memory.ofBytesFrom 0 [0#8, 0#8, 0x23#8, 0x45#8, 0xFF#8, 0xFF#8, 0#8, 0xFF#8, 0#8] &&
        t.pkt == v1) = true := by decide

/-! ### Witnesses: for each statement with hypotheses, concrete states and operands that meet all of them together -/

/-- The state a result holds. -/
def nextOf (o : Result) : State :=
  match o with
  | .next t => t
  | .fault _ => .reset
  | .refused _ => .reset

/-- The state a command leaves. -/
def after (i : Instr) (s : State) : State := nextOf (exec i s)

/-- SERIALIZE of V1. -/
def v1Out : State := after .serialize (holding v1)

theorem v1_lengthOk : v1.lengthOk := .inr (by decide)

theorem v1_serialized : exec .serialize (holding v1) = .next v1Out ∧ v1Out.status = .ok := ⟨rfl, rfl⟩

theorem v1_output : OutputIs v1Wire v1Out := outputIs_emitOut _ v1Wire (by decide)

theorem v1_input (s : State) : InputIs v1Wire (load v1Wire s) :=
  ⟨rfl, fun j _ => Memory.read?_ofBytes v1Wire j⟩

theorem witness_DecodeAndEncodeAgree :
    Instr.telemEncode.wellFormed = true ∧ decode 0x53#32 = .ok .telemEncode := ⟨rfl, rfl⟩

theorem witness_StepRunsDecodedCommand :
    ∃ (s : State) (rest : List HostEvent), s.pending = .write 0x000 4 0x03#32 :: rest ∧ decode 0x03#32 = .ok .serialize ∧
      Instr.serialize.wellFormed = true := ⟨issuing [.write 0x000 4 0x03#32, .read 0x004 4] (holding v1), _, rfl, rfl, rfl⟩

/-- Reserved bits, and both ends of a reserved opcode range. -/
theorem witness_CommandWriteIsIllegal :
    (issuing [.write 0x000 4 0x101#32] (holding v1)).pending = [.write 0x000 4 0x101#32] ∧
    (0x101#32).toNat / 256 ≠ 0 ∧ reservedOpcodeRange ((0x00#32).toNat % 256) = true ∧
    reservedOpcodeRange ((0x04#32).toNat % 256) = true ∧ reservedOpcodeRange ((0x0F#32).toNat % 256) = true ∧
    reservedOpcodeRange ((0x54#32).toNat % 256) = true ∧ reservedOpcodeRange ((0xFF#32).toNat % 256) = true := by decide

/-- Both ends of a group of opcodes. -/
theorem witness_CommandWriteRunsOneCommand :
    (issuing [.write 0x000 4 0x03#32] (holding v1)).pending = [.write 0x000 4 0x03#32] ∧
    (0x03#32).toNat / 256 = 0 ∧ reservedOpcodeRange ((0x03#32).toNat % 256) = false ∧
    reservedOpcodeRange ((0x01#32).toNat % 256) = false ∧ reservedOpcodeRange ((0x10#32).toNat % 256) = false ∧
    reservedOpcodeRange ((0x53#32).toNat % 256) = false := by decide

theorem witness_IdleStepWaits : (holding v1).pending = [] := rfl

theorem witness_ResetPulseLeavesResetState :
    (issuing [.reset, .read 0x004 4] (holding v1)).pending = .reset :: [.read 0x004 4] := rfl

theorem witness_StepKeepsInvariant :
    ∃ s t : State, s.Inv ∧ s.pending = [.write 0x000 4 0x03#32] ∧ step s = .next t ∧ t.outLen = 8#32 :=
  ⟨issuing [.write 0x000 4 0x03#32] (load v1Wire (holding v1)), _,
    ⟨by decide, by decide, by decide, by decide, by intro j; simp [issuing, load, holding, State.reset], by decide, v1_lengthOk⟩,
    rfl, rfl, rfl⟩

theorem witness_ReachableLengthCountsPayload :
    ∃ t, Host.Core.run Sys2Proof.core 1 { State.reset with pending := [.write 0x000 4 0x13#32], draws := 7 } = .next t ∧
      t.pkt.header.length = 14#8 := ⟨_, rfl, rfl⟩

theorem witness_FailingCommandChangesOnlyStatus :
    exec .serialize .reset = .next (after .serialize .reset) ∧ (after .serialize .reset).status ≠ .ok := ⟨rfl, by decide⟩

/-- PARSE changes seven of the fields, SET_COMMAND the other two. -/
theorem witness_OnlyTabledCommandsWritePacketFields :
    (∃ s t : State, exec .parse s = .next t ∧ t.pkt.header.count ≠ s.pkt.header.count ∧
      t.pkt.header.status ≠ s.pkt.header.status ∧ t.pkt.header.ack ≠ s.pkt.header.ack ∧
      t.pkt.header.pad ≠ s.pkt.header.pad ∧ t.pkt.header.length ≠ s.pkt.header.length ∧ t.pkt.payload ≠ s.pkt.payload ∧
      t.pkt.checksum ≠ s.pkt.checksum) ∧
    ∃ s t : State, exec .setCommand s = .next t ∧ t.pkt.header.drive ≠ s.pkt.header.drive ∧
      t.pkt.header.sleep ≠ s.pkt.header.sleep :=
  ⟨⟨load ([0xAB#8, 0xCD#8, 0x5F#8, 0x0E#8] ++ telemetryRecord ++ [0x99#8]) .reset, _, rfl, by decide⟩,
    args [2#32] (holding v1), _, rfl, by decide⟩

theorem witness_OnlyTabledCommandsWriteInterface :
    exec .hdrDecode (load v1Wire .reset) = .next (after .hdrDecode (load v1Wire .reset)) ∧
    Instr.hdrDecode.writesOutput = false ∧ Instr.hdrDecode.resultCount = 7 := ⟨rfl, rfl, rfl⟩

/-- One for each of the four clauses. -/
theorem witness_TagBitsFollowTheirWriters :
    (∃ t, exec .setTelemetry (holding v1) = .next t ∧ t.status = .ok) ∧
    (∃ t, exec .new (holding v1) = .next t ∧ t.status = .ok) ∧
    (∃ t, exec .parse (load v1Wire .reset) = .next t ∧ t.status = .ok) ∧
    ∃ t, exec .setPacketCount (holding v1) = .next t ∧ t.status = .ok :=
  ⟨⟨_, rfl, rfl⟩, ⟨_, rfl, rfl⟩, ⟨_, rfl, rfl⟩, ⟨_, rfl, rfl⟩⟩

theorem witness_StatelessCommandsIgnorePacket :
    Instr.ckVerify.packetFree = true ∧ ∃ t, exec .ckVerify (args [7#32] (load v1Wire .reset)) = .next t ∧ t.res[0] = 1#32 :=
  ⟨rfl, _, rfl, by decide⟩

/-- The operand files differ above bit 15 of ARG0 and in ARG1. -/
theorem witness_OperandsCountOnlyInTheirWidth :
    ∃ (s t : State) (a : Vector Word 8), a ≠ s.arg ∧
      (∀ k : Fin 8, a[k].toNat % 2 ^ Instr.setPacketCount.operandWidth k.val =
        s.arg[k].toNat % 2 ^ Instr.setPacketCount.operandWidth k.val) ∧
      exec .setPacketCount s = .next t :=
  ⟨args [5#32] .reset, _, (args [0x10005#32, 1#32] .reset).arg, by decide, by decide, rfl⟩

/-- The buffers differ from IN_LEN on. -/
theorem witness_CommandsReadOnlyValidInput :
    ∃ (s t : State) (m : Memory), m ≠ s.inBuf ∧ (∀ j, j < s.inLen.toNat → m.read? j = s.inBuf.read? j) ∧
      exec .parse s = .next t ∧ t.status = .ok :=
  ⟨load v1Wire .reset, _, (load v1Wire .reset).inBuf.write 8 1#8, by decide, by decide, rfl, rfl⟩

theorem witness_WrittenInputLeavesNothingFree :
    ∃ s t : State, (∀ j, j < s.inLen.toNat → (s.inBuf.read? j).isSome = true) ∧ exec .parse s = .next t ∧ t.status = .ok :=
  ⟨load v1Wire .reset, _, by decide, rfl, rfl⟩

/-- A successful output command, and another command. -/
theorem witness_OutputCommandsSupersede :
    (exec .serialize (holding v1) = .next v1Out ∧ Instr.serialize.writesOutput = true ∧ v1Out.status = .ok) ∧
    (exec .hasTelemetry (holding v1) = .next (after .hasTelemetry (holding v1)) ∧ Instr.hasTelemetry.writesOutput = false) :=
  ⟨⟨rfl, rfl, rfl⟩, rfl, rfl⟩

theorem witness_HdrDecodeReportsFields :
    4 ≤ (load [1#8, 2#8, 3#8, 4#8] .reset).inLen.toNat ∧ (load [1#8, 2#8, 3#8] .reset).inLen.toNat < 4 := by decide

/-- PARSE: 3 bytes; 4 bytes with Length 4; 4 bytes with Length 5; 5 bytes with Length 5. -/
theorem witness_ParseStoresWirePacket :
    (load [0#8, 0#8, 0#8] .reset).inLen.toNat < 4 ∧
    (4 ≤ (load [0#8, 0#8, 0#8, 4#8] .reset).inLen.toNat ∧ ((load [0#8, 0#8, 0#8, 4#8] .reset).inByte 3).toNat < 5) ∧
    (4 ≤ (load [0#8, 0#8, 0#8, 5#8] .reset).inLen.toNat ∧ 5 ≤ ((load [0#8, 0#8, 0#8, 5#8] .reset).inByte 3).toNat ∧
      (load [0#8, 0#8, 0#8, 5#8] .reset).inLen.toNat < ((load [0#8, 0#8, 0#8, 5#8] .reset).inByte 3).toNat) ∧
    (5 ≤ ((load [0#8, 0#8, 0#8, 5#8, 0#8] .reset).inByte 3).toNat ∧
      ((load [0#8, 0#8, 0#8, 5#8, 0#8] .reset).inByte 3).toNat ≤ (load [0#8, 0#8, 0#8, 5#8, 0#8] .reset).inLen.toNat) := by
  decide

/-- A wrong checksum byte, and bytes after the packet. -/
theorem witness_ParseIgnoresTrailingBytes :
    ∃ s s' : State, s ≠ s' ∧ 5 ≤ (s.inByte 3).toNat ∧ (s.inByte 3).toNat ≤ s.inLen.toNat ∧
      (s.inByte 3).toNat ≤ s'.inLen.toNat ∧ ∀ j, j < (s.inByte 3).toNat → s'.inByte j = s.inByte j :=
  ⟨load [0#8, 0#8, 0#8, 5#8, 77#8] .reset, load [0#8, 0#8, 0#8, 5#8, 77#8, 6#8, 7#8] (holding pa9), by decide, by decide,
    by decide, by decide, by decide⟩

theorem witness_TelemetryAfterParse :
    ∃ t, exec .parse (load ([0xAB#8, 0xCD#8, 0x5F#8, 0x0E#8] ++ telemetryRecord ++ [0x99#8]) .reset) = .next t ∧
      t.status = .ok := ⟨_, rfl, rfl⟩

theorem witness_SetCommandSetsOneTag :
    (args [2#32] .reset).arg[0].toNat ≤ 2 ∧ 2 < (args [3#32] .reset).arg[0].toNat := by decide

theorem witness_SetCommandIsIdempotentAndExclusive :
    ∃ t u : State, exec .setCommand (args [2#32] (holding v1)) = .next t ∧ (args [2#32] (holding v1)).arg[0].toNat ≤ 2 ∧
      u.pkt.header = t.pkt.header ∧ u ≠ t :=
  ⟨_, after .serialize (after .setCommand (args [2#32] (holding v1))), rfl, by decide, rfl, by decide⟩

theorem witness_SetPayloadStoresInput :
    ({ State.reset with inLen := 250#32 }).inLen.toNat ≤ 250 ∧ 250 < ({ State.reset with inLen := 251#32 }).inLen.toNat := by
  decide

theorem witness_PayloadReadsBack :
    ∃ s t u : State, InputIs v1Wire s ∧ v1Wire.length ≤ 250 ∧ exec .setPayload s = .next t ∧
      u.pkt.payload = t.pkt.payload ∧ u.pkt.header.length = t.pkt.header.length ∧ u ≠ t :=
  ⟨load v1Wire .reset, after .setPayload (load v1Wire .reset), after .getAck (args [1#32] (after .setPayload (load v1Wire .reset))),
    v1_input _, by decide, rfl, rfl, rfl, by decide⟩

theorem witness_GetPayloadCopiesOut : (holding v1).pkt.lengthOk ∧ (holding .empty).pkt.lengthOk := ⟨v1_lengthOk, .inl ⟨rfl, rfl⟩⟩

/-- A record; no Status tag; no 9-byte payload. -/
theorem witness_GetTelemetryReportsRecord :
    ((holding pa9).pkt.header.status = true ∧
      (holding pa9).pkt.payload = [0x02#8, 0x2B#8, 0x00#8, 0x50#8, 0x00#8, 0x04#8, 0x01#8, 0x03#8, 0x5F#8]) ∧
    ¬((holding v1).pkt.header.status = true ∧ (holding v1).pkt.payload.length = 9) := by decide

/-- Length 4 and Length 5, and the empty packet. -/
theorem witness_SerializeEmitsWirePacket :
    (holding (packet 0#16 false false false false 0#4 4#8 [] 0#8)).pkt.header.length.toNat < 5 ∧
    (holding .empty).pkt.header.length.toNat < 5 ∧
    5 ≤ (holding (packet 0#16 false false false false 0#4 5#8 [] 0#8)).pkt.header.length.toNat ∧
    (holding (packet 0#16 false false false false 0#4 5#8 [] 0#8)).pkt.lengthOk :=
  ⟨by decide, by decide, by decide, .inr (by decide)⟩

/-- Between the two commands: a status read, another output command, and an illegal word. -/
theorem witness_SerializeIsRepeatable :
    ∃ (s t u v : State) (between rest : List HostEvent), between.length = 3 ∧
      exec .serialize s = .next t ∧ (∀ ev ∈ between, ev.keepsPacketFields = true) ∧ t.pending = between ++ rest ∧
      Host.Core.run Sys2Proof.core between.length t = .next u ∧ exec .serialize u = .next v ∧ t.status = .ok :=
  ⟨issuing ([.read 0x004 4, .write 0x000 4 0x31#32, .write 0x000 4 0x103#32] ++ [.reset]) (holding v1), _, _, _,
    [.read 0x004 4, .write 0x000 4 0x31#32, .write 0x000 4 0x103#32], [.reset], rfl, rfl, by decide, rfl, rfl, rfl, rfl⟩

theorem witness_ParseOfSerializeRestoresPacket :
    ∃ s t u : State, s.pkt.lengthOk ∧ exec .serialize s = .next t ∧ t.status = .ok ∧ OutputIs v1Wire t ∧
      InputStartsWith v1Wire u :=
  ⟨holding v1, v1Out, load v1Wire .reset, v1_lengthOk, rfl, rfl, v1_output, (v1_input _).startsWith⟩

/-- The last offset inside the buffer, the first outside, and the largest. -/
theorem witness_CkVerifyComparesChecksum :
    (args [7#32] (load v1Wire .reset)).arg[0].toNat < (args [7#32] (load v1Wire .reset)).inLen.toNat ∧
    (args [8#32] (load v1Wire .reset)).inLen.toNat ≤ (args [8#32] (load v1Wire .reset)).arg[0].toNat ∧
    (args [0xFFFFFFFF#32] (load v1Wire .reset)).inLen.toNat ≤ (args [0xFFFFFFFF#32] (load v1Wire .reset)).arg[0].toNat := by
  decide

theorem witness_SerializedPacketVerifies :
    ∃ s t u : State, s.pkt.lengthOk ∧ exec .serialize s = .next t ∧ t.status = .ok ∧ OutputIs v1Wire t ∧ InputIs v1Wire u ∧
      u.arg[0].toNat = v1Wire.length - 1 :=
  ⟨holding v1, v1Out, args [7#32] (load v1Wire .reset), v1_lengthOk, rfl, rfl, v1_output, v1_input .reset, by decide⟩

/-- The flip of bit 7 of the first byte, and of bit 0 of the checksum byte. -/
theorem witness_SingleBitFlipIsDetected :
    ∃ u u' : State, (0 ≤ (v1Wire.take 7).length ∧ 7 < 8 ∧ (v1Wire.take 7).length < 256) ∧
      InputIs ((v1Wire.take 7 ++ [checksum8 (v1Wire.take 7)]).modify 0 fun b => b ^^^ (1#8 <<< 7)) u ∧
      u.arg[0].toNat = (v1Wire.take 7).length ∧
      InputIs ((v1Wire.take 7 ++ [checksum8 (v1Wire.take 7)]).modify 7 fun b => b ^^^ (1#8 <<< 0)) u' ∧
      u'.arg[0].toNat = (v1Wire.take 7).length :=
  ⟨args [7#32] (load [0x84#8, 0xD2#8, 0x80#8, 0x08#8, 0x04#8, 0x0A#8, 0x64#8, 0x0D#8] .reset),
    args [7#32] (load [0x04#8, 0xD2#8, 0x80#8, 0x08#8, 0x04#8, 0x0A#8, 0x64#8, 0x0C#8] .reset), by decide,
    ⟨by decide, by decide⟩, by decide, ⟨by decide, by decide⟩, by decide⟩

theorem witness_DriveDecodeReportsBody :
    (load [1#8, 2#8, 3#8] .reset).inLen.toNat = 3 ∧ (load [1#8, 2#8] .reset).inLen.toNat ≠ 3 ∧
    (load [1#8, 2#8, 3#8, 4#8] .reset).inLen.toNat ≠ 3 := by decide

theorem witness_TelemDecodeReportsRecord :
    (load telemetryRecord .reset).inLen.toNat = 9 ∧ (load (telemetryRecord.take 8) .reset).inLen.toNat ≠ 9 ∧
    (load (0#8 :: telemetryRecord) .reset).inLen.toNat ≠ 9 := by decide

theorem witness_InterpretersRoundTripDrive :
    ∃ s t u : State, OutputIs [4#8, 5#8, 0xFF#8] t ∧ InputIs [4#8, 5#8, 0xFF#8] u ∧ exec .driveEncode s = .next t :=
  ⟨args [260#32, 261#32, 511#32] .reset, _, load [4#8, 5#8, 0xFF#8] .reset, outputIs_emitOut _ _ (by decide),
    ⟨by decide, by decide⟩, rfl⟩

theorem witness_InterpretersRoundTripTelemetry :
    ∃ s t u : State, OutputIs telemetryRecord t ∧ InputIs telemetryRecord u ∧ exec .telemEncode s = .next t :=
  ⟨args [555#32, 80#32, 4#32, 1#32, 3#32, 95#32] .reset, _, load telemetryRecord .reset,
    outputIs_emitOut _ telemetryRecord (by decide), ⟨by decide, by decide⟩, rfl⟩

/-- Packet count 0, Status alone, Length 14, the record of V3, and the number of its 1 bits: 1 + 3 of the header and 1 + 4 + 2 + 1
+ 1 + 2 + 6 of the record. -/
def telemetryWire : List Byte := [0x00#8, 0x00#8, 0x40#8, 0x0E#8] ++ telemetryRecord ++ [0x15#8]

theorem witness_TelemetrySurvivesTheWire :
    ∃ (s t u p : State) (wire : List Byte), wire.length = 14 ∧ exec .setTelemetry s = .next t ∧ exec .serialize t = .next u ∧
      OutputIs wire u ∧ InputStartsWith wire p :=
  ⟨args [555#32, 80#32, 4#32, 1#32, 3#32, 95#32] .reset, _, _, load telemetryWire .reset, telemetryWire, rfl, rfl, rfl,
    outputIs_emitOut _ telemetryWire (by decide), by decide, by decide⟩

/-- A place no access reaches, with a read and with a write of it next. -/
theorem witness_RefusedAccessesAreStuck :
    (∀ loc, locate 0x022 4 ≠ .ok loc) ∧
    (issuing [.read 0x022 4] .reset).pending = [.read 0x022 4] ∧
    (issuing [.write 0x022 4 1#32] .reset).pending = [.write 0x022 4 1#32] :=
  ⟨fun loc => by simp [show locate 0x022 4 = .error .misaligned from rfl], rfl, rfl⟩

theorem witness_InLenWriteIsBounded :
    ((issuing [.write 0x008 4 257#32] .reset).pending = [.write 0x008 4 257#32] ∧ 256 < (257#32).toNat) ∧
    ((issuing [.write 0x008 4 256#32] .reset).pending = [.write 0x008 4 256#32] ∧ (256#32).toNat ≤ 256) := by decide

/-- One for each of the six clauses, at the end of its range. -/
theorem witness_HostWritesStoreOrAreIgnored :
    (issuing [.write 0x03C 4 9#32] .reset).pending = .write (0x020 + 4 * (7 : Fin 8).val) 4 9#32 :: [] ∧
    (255 < 256 ∧ (issuing [.write 0x1FF 1 9#32] .reset).pending = .write (0x100 + 255) 1 9#32 :: []) ∧
    (issuing [.write 0x004 4 9#32] .reset).pending = .write 0x004 4 9#32 :: [] ∧
    (issuing [.write 0x00C 4 9#32] .reset).pending = .write 0x00C 4 9#32 :: [] ∧
    (issuing [.write 0x05C 4 9#32] .reset).pending = .write (0x040 + 4 * (7 : Fin 8).val) 4 9#32 :: [] ∧
    (issuing [.write 0x2FF 1 9#32] .reset).pending = .write (0x200 + 255) 1 9#32 :: [] := by decide

/-- One for each of the six clauses, at the end of its range. -/
theorem witness_RegisterReadsReturnTheRegister :
    (issuing [.read 0x000 4] .reset).pending = .read 0x000 4 :: [] ∧
    (issuing [.read 0x004 4] .reset).pending = .read 0x004 4 :: [] ∧
    (issuing [.read 0x008 4] .reset).pending = .read 0x008 4 :: [] ∧
    (issuing [.read 0x00C 4] .reset).pending = .read 0x00C 4 :: [] ∧
    ((issuing [.read 0x03C 4] .reset).pending = .read 0x03C 4 :: [] ∧ 0x03C = 0x020 + 4 * (7 : Fin 8).val) ∧
    ((issuing [.read 0x05C 4] .reset).pending = .read 0x05C 4 :: [] ∧ 0x05C = 0x040 + 4 * (7 : Fin 8).val) := by decide

/-- A written byte of IN_BUF at its last index and a byte of OUT_BUF at the last index below OUT_LEN. -/
theorem witness_BufferReadsReturnTheByteOrADraw :
    ((issuing [.read 0x1FF 1] { State.reset with inBuf := [(255, 3#8)] }).pending = .read (0x100 + 255) 1 :: [] ∧
      Memory.read? [(255, 3#8)] 255 = some 3#8) ∧
    ((issuing [.read 0x207 1] v1Out).pending = .read (0x200 + 7) 1 :: [] ∧ 7 < v1Out.outLen.toNat ∧
      v1Out.outBuf.read? 7 = some 0x0D#8) := by decide

theorem witness_LoopbackCopiesOutputToInput :
    ∃ (s : State) (rest : List HostEvent), v1Wire.length ≤ 255 ∧ OutputIs v1Wire s ∧ s.pending = asmLoopback v1Wire ++ rest :=
  ⟨issuing (asmLoopback v1Wire ++ [.read 0x004 4]) v1Out, _, by decide, v1_output, rfl⟩

end Sys2Proof.Tests
end

section
/-! PROOF. How a command can end, said once for all commands: every frame and every invariant over commands follows from it by
cases. -/

namespace Sys2Proof.Machine

/-- The packet that a successful command, one that writes the packet and no output, leaves from the state `s`
(10_state.md R40). -/
inductive WritesPacket (s : State) : Instr → Packet → Prop
  | new : WritesPacket s .new Packet.empty
  | parse (h5 : 5 ≤ (s.inByte 3).toNat) : WritesPacket s .parse
      { header := decodeHeader (s.inByte 0) (s.inByte 1) (s.inByte 2) (s.inByte 3)
        payload := s.inSlice 4 ((s.inByte 3).toNat - 1)
        checksum := s.inByte ((s.inByte 3).toNat - 1) }
  | setCommand (h : s.argFull 0 ≤ 2) : WritesPacket s .setCommand
      { s.pkt with header := s.pkt.header.withTag (s.argFull 0) }
  | setPayload (h : s.inLen.toNat ≤ 250) : WritesPacket s .setPayload (s.pkt.withPayload s.input)
  | setPacketCount : WritesPacket s .setPacketCount
      { s.pkt with header := { s.pkt.header with count := s.argField 0 16 } }
  | setTelemetry : WritesPacket s .setTelemetry
      (Packet.withPayload { s.pkt with header := s.pkt.header.withTag 1 } (telemetryBytes s.telemetryArgs))

/-- The ways a command can end from the state `s`: it fails, it reports results (and is no mutator), it replaces the packet, it emits
bytes, or it is a successful SERIALIZE, which emits bytes and stores the checksum. -/
inductive CommandEnds (s : State) : Instr → State → Prop
  | failed {i : Instr} {c : Completion} (d : Nat) (hc : c ∈ i.mayRaise) :
      CommandEnds s i (State.setStatus { s with draws := d } c)
  | reported {i : Instr} {vs : List Word} (d : Nat) (hi : i.mutatesPacket = false) (hvs : vs.length = i.resultCount) :
      CommandEnds s i ((State.setResults { s with draws := d } vs).setStatus .ok)
  | packetWritten {i : Instr} {p : Packet} (d : Nat) (hp : WritesPacket s i p) :
      CommandEnds s i ((State.setPacket { s with draws := d } p).setStatus .ok)
  | emitted {i : Instr} {bytes : List Byte} (hi : i.writesOutput = true) (hb : s.pkt.lengthOk → bytes.length ≤ 255) :
      CommandEnds s i ((s.emitOut bytes).setStatus .ok)
  | serialized (h5 : 5 ≤ s.pkt.header.length.toNat) :
      CommandEnds s .serialize
        (((s.setPacket { s.pkt with checksum := checksum8 s.pkt.body }).emitOut s.pkt.wire).setStatus .ok)

/-! ### The Length invariant of a packet (10_state.md R36) -/

theorem Packet.lengthOk.payload_le {p : Packet} (h : p.lengthOk) : p.payload.length ≤ 250 := by
  rcases h with ⟨_, hp⟩ | ⟨hl, _, hle⟩
  · simp [hp]
  · omega

/-- A packet that SERIALIZE accepts fits OUT_BUF. -/
theorem Packet.lengthOk.wire_le {p : Packet} (h : p.lengthOk) : p.wire.length ≤ 255 := by
  have := h.payload_le
  rw [Packet.length_wire]
  omega

theorem Packet.lengthOk_withPayload (p : Packet) {bytes : List Byte} (h : bytes.length ≤ 250) :
    (p.withPayload bytes).lengthOk := by
  have hl : (p.withPayload bytes).header.length.toNat = bytes.length + 5 := by
    simp only [Packet.withPayload, BitVec.toNat_ofNat]
    omega
  have hp : (p.withPayload bytes).payload = bytes := rfl
  rw [Packet.lengthOk, hl, hp]
  omega

/-- Every command that writes the packet keeps the Length invariant. -/
theorem WritesPacket.lengthOk {s : State} {i : Instr} {p : Packet} (h : WritesPacket s i p) (hs : s.pkt.lengthOk) :
    p.lengthOk := by
  cases h with
  | new => exact .inl ⟨rfl, rfl⟩
  | parse h5 =>
    refine .inr ?_
    have := (s.inByte 3).isLt
    simp only [decodeHeader, State.length_inSlice]
    omega
  | setCommand => exact hs
  | setPayload h => exact Packet.lengthOk_withPayload _ (by rwa [State.length_input])
  | setPacketCount => exact hs
  | setTelemetry => exact Packet.lengthOk_withPayload _ (by simp)

/-! ### The commands that check before they act -/

theorem execParse_ends (s : State) : ∃ t, execParse s = .next t ∧ CommandEnds s .parse t := by
  by_cases h4 : s.inLen.toNat < 4
  · exact ⟨_, execParse_malformed h4, .failed _ (by decide)⟩
  by_cases h5 : (s.inByte 3).toNat < 5
  · exact ⟨_, execParse_invalid (Nat.le_of_not_lt h4) h5, .failed _ (by decide)⟩
  by_cases hl : s.inLen.toNat < (s.inByte 3).toNat
  · exact ⟨_, execParse_truncated (Nat.le_of_not_lt h4) (Nat.le_of_not_lt h5) hl, .failed _ (by decide)⟩
  · exact ⟨_, execParse_ok (Nat.le_of_not_lt h5) (Nat.le_of_not_lt hl),
      .packetWritten _ (.parse (Nat.le_of_not_lt h5))⟩

theorem execSerialize_ends (s : State) : ∃ t, execSerialize s = .next t ∧ CommandEnds s .serialize t := by
  by_cases h : s.pkt.header.length.toNat < 5
  · exact ⟨_, execSerialize_invalid h, .failed _ (by decide)⟩
  · exact ⟨_, execSerialize_ok (Nat.le_of_not_lt h), .serialized (Nat.le_of_not_lt h)⟩

theorem execSetCommand_ends (s : State) : ∃ t, execSetCommand s = .next t ∧ CommandEnds s .setCommand t := by
  by_cases h : s.argFull 0 ≤ 2
  · exact ⟨_, execSetCommand_ok h, .packetWritten _ (.setCommand h)⟩
  · exact ⟨_, execSetCommand_invalid (Nat.lt_of_not_le h), .failed _ (by decide)⟩

theorem execSetPayload_ends (s : State) : ∃ t, execSetPayload s = .next t ∧ CommandEnds s .setPayload t := by
  by_cases h : s.inLen.toNat ≤ 250
  · exact ⟨_, execSetPayload_ok h, .packetWritten _ (.setPayload h)⟩
  · exact ⟨_, execSetPayload_tooLarge (Nat.lt_of_not_le h), .failed _ (by decide)⟩

theorem execGetTelemetry_ends (s : State) : ∃ t, execGetTelemetry s = .next t ∧ CommandEnds s .getTelemetry t := by
  cases h : s.pkt.telemetry? with
  | some r => exact ⟨_, execGetTelemetry_some h, .reported s.draws rfl rfl⟩
  | none => exact ⟨_, execGetTelemetry_none h, .failed _ (by decide)⟩

theorem execHdrDecode_ends (s : State) : ∃ t, execHdrDecode s = .next t ∧ CommandEnds s .hdrDecode t := by
  by_cases h : s.inLen.toNat < 4
  · exact ⟨_, execHdrDecode_malformed h, .failed _ (by decide)⟩
  · exact ⟨_, execHdrDecode_ok (Nat.le_of_not_lt h), .reported (s.draws + 1) rfl rfl⟩

theorem execCkVerify_ends (s : State) : ∃ t, execCkVerify s = .next t ∧ CommandEnds s .ckVerify t := by
  by_cases h : s.argFull 0 < s.inLen.toNat
  · exact ⟨_, execCkVerify_ok h, .reported (s.draws + 1) rfl rfl⟩
  · exact ⟨_, execCkVerify_truncated (Nat.le_of_not_lt h), .failed _ (by decide)⟩

theorem execDriveDecode_ends (s : State) : ∃ t, execDriveDecode s = .next t ∧ CommandEnds s .driveDecode t := by
  by_cases h : s.inLen.toNat = 3
  · exact ⟨_, execDriveDecode_ok h, .reported (s.draws + 1) rfl rfl⟩
  · exact ⟨_, execDriveDecode_size h, .failed _ (by decide)⟩

theorem execTelemDecode_ends (s : State) : ∃ t, execTelemDecode s = .next t ∧ CommandEnds s .telemDecode t := by
  by_cases h : s.inLen.toNat = 9
  · exact ⟨_, execTelemDecode_ok h, .reported (s.draws + 1) rfl rfl⟩
  · exact ⟨_, execTelemDecode_size h, .failed _ (by decide)⟩

/-! ### All commands -/

/-- Every command, from every state, answers a next state, and ends in one of the five ways. -/
theorem exec_ends (i : Instr) (s : State) : ∃ t, exec i s = .next t ∧ CommandEnds s i t := by
  cases i with
  | new => exact ⟨_, rfl, .packetWritten s.draws .new⟩
  | parse => exact execParse_ends s
  | serialize => exact execSerialize_ends s
  | setCommand => exact execSetCommand_ends s
  | setPayload => exact execSetPayload_ends s
  | setPacketCount => exact ⟨_, rfl, .packetWritten s.draws .setPacketCount⟩
  | setTelemetry => exact ⟨_, rfl, .packetWritten s.draws .setTelemetry⟩
  | getCommand => exact ⟨_, rfl, .reported s.draws rfl rfl⟩
  | getAck => exact ⟨_, rfl, .reported s.draws rfl rfl⟩
  | getLength => exact ⟨_, rfl, .reported s.draws rfl rfl⟩
  | getPayload => exact ⟨_, rfl, .emitted rfl fun h => h.payload_le.trans (by decide)⟩
  | getPacketCount => exact ⟨_, rfl, .reported s.draws rfl rfl⟩
  | hasTelemetry => exact ⟨_, rfl, .reported s.draws rfl rfl⟩
  | getTelemetry => exact execGetTelemetry_ends s
  | getChecksum => exact ⟨_, rfl, .reported s.draws rfl rfl⟩
  | hdrDecode => exact execHdrDecode_ends s
  | hdrEncode => exact ⟨_, rfl, .emitted rfl fun _ => by simp⟩
  | ckCompute => exact ⟨_, rfl, .reported (s.draws + 1) rfl rfl⟩
  | ckVerify => exact execCkVerify_ends s
  | driveDecode => exact execDriveDecode_ends s
  | driveEncode => exact ⟨_, rfl, .emitted rfl fun _ => by simp⟩
  | telemDecode => exact execTelemDecode_ends s
  | telemEncode => exact ⟨_, rfl, .emitted rfl fun _ => by simp⟩

/-- All that a command can do. -/
theorem CommandEnds.of_exec {i : Instr} {s t : State} (h : exec i s = .next t) : CommandEnds s i t := by
  obtain ⟨u, hu, he⟩ := exec_ends i s
  cases hu.symm.trans h
  exact he

end Sys2Proof.Machine
end

section
/-! PROOF. The invariant of reachable states: what each operation of the state needs to keep it, then commands, steps and runs. -/

namespace Sys2Proof.Machine

/-! ### The operations -/

namespace State.Inv

variable {s : State}

theorem setStatus (h : s.Inv) (c : Completion) : (s.setStatus c).Inv := { h with }

theorem setCmd (h : s.Inv) (w : Word) : (s.setCmd w).Inv := { h with }

theorem setArg (h : s.Inv) (i : Fin 8) (v : Word) : (s.setArg i v).Inv := { h with }

theorem setPending (h : s.Inv) (events : List HostEvent) : (s.setPending events).Inv := { h with }

/-- The host's received words and the index of the next free value are outside the invariant. -/
theorem setHostSide (h : s.Inv) (vs : List Word) (d : Nat) : State.Inv { s with received := vs, draws := d } := { h with }

theorem setInLen (h : s.Inv) {v : Word} (hv : v.toNat ≤ Config.inBufSize) : (s.setInLen v).Inv := { h with inLen_le := hv }

theorem setInByte (h : s.Inv) {j : Nat} (b : Byte) (hj : j < Config.inBufSize) : (s.setInByte j b).Inv :=
  { h with inBuf_wf := Memory.wf_write b h.inBuf_wf hj }

theorem setPacket (h : s.Inv) {p : Packet} (hp : p.lengthOk) : (s.setPacket p).Inv := { h with length_ok := hp }

/-- No more than seven results leave RES7 alone (10_state.md R40). -/
theorem setResults (h : s.Inv) {vs : List Word} (hvs : vs.length ≤ 7) : (s.setResults vs).Inv :=
  { h with res7_zero := by simpa [List.getElem?_eq_none hvs] using h.res7_zero }

/-- An output of at most 255 bytes is held exactly (10_state.md R25, R39). -/
theorem emitOut (h : s.Inv) {bytes : List Byte} (hb : bytes.length ≤ 255) : (s.emitOut bytes).Inv := by
  have hl : (s.emitOut bytes).outLen.toNat = bytes.length := (outputIs_emitOut s bytes hb).1
  exact { h with
    outBuf_wf := Memory.wf_ofBytes bytes (hb.trans (by decide))
    outLen_le := hl.trans_le hb
    out_held := fun j => by rw [hl]; simp }

end State.Inv

/-- Settles O8: every register and the packet are empty, and no byte of either buffer is listed. -/
theorem resetMeetsInvariant : Obligations.ResetMeetsInvariant where
  inBuf_wf := rfl
  outBuf_wf := rfl
  inLen_le := by decide
  outLen_le := by decide
  out_held := fun j => by simp [State.reset]
  res7_zero := rfl
  length_ok := .inl ⟨rfl, rfl⟩

theorem State.Inv.pulseReset (s : State) : s.pulseReset.Inv :=
  (State.Inv.setHostSide resetMeetsInvariant s.received s.draws).setPending s.pending

/-! ### Commands, steps and runs -/

theorem resultCount_le_seven (i : Instr) : i.resultCount ≤ 7 := by
  cases i <;> decide

theorem exec_keeps_inv {i : Instr} {s t : State} (hs : s.Inv) (h : exec i s = .next t) : t.Inv := by
  cases CommandEnds.of_exec h with
  | failed d => exact (hs.setHostSide s.received d).setStatus _
  | reported d _ hvs =>
    exact ((hs.setHostSide s.received d).setResults (hvs.trans_le (resultCount_le_seven i))).setStatus _
  | packetWritten d hp => exact ((hs.setHostSide s.received d).setPacket (hp.lengthOk hs.length_ok)).setStatus _
  | emitted _ hb => exact (hs.emitOut (hb hs.length_ok)).setStatus _
  | serialized =>
    have hp : Packet.lengthOk { s.pkt with checksum := checksum8 s.pkt.body } := hs.length_ok
    exact ((hs.setPacket hp).emitOut hs.length_ok.wire_le).setStatus _

theorem hostRead_keeps_inv {s : State} (hs : s.Inv) (loc : Location) : (hostRead loc s).Inv := by
  obtain ⟨v, d, h⟩ := hostRead_cases loc s
  rw [h]
  exact hs.setHostSide _ d

theorem issueCommand_keeps_inv {w : Word} {s t : State} (hs : s.Inv) (h : issueCommand exec w s = .next t) : t.Inv := by
  obtain ⟨i, -, hi⟩ | ⟨e, -, he⟩ := issueCommand_cases exec w s
  · exact exec_keeps_inv (hs.setCmd w) (hi.symm.trans h)
  · cases he.symm.trans h
    exact (hs.setCmd w).setStatus _

theorem hostWrite_keeps_inv {offset width : Nat} {loc : Location} {v : Word} {s t : State}
    (hloc : locate offset width = .ok loc) (hs : s.Inv) (h : hostWrite exec loc v s = .next t) : t.Inv := by
  by_cases hc : loc = .cmd
  · subst hc
    exact issueCommand_keeps_inv hs h
  obtain rfl | ⟨-, hv, rfl⟩ | ⟨i, rfl⟩ | ⟨j, rfl, rfl⟩ := hostWrite_cases hc h
  · exact hs
  · exact hs.setInLen hv
  · exact hs.setArg i v
  · exact hs.setInByte _ (locate_inBuf_lt hloc)

theorem perform_keeps_inv {ev : HostEvent} {s t : State} (hs : s.Inv) (h : perform exec ev s = .next t) : t.Inv := by
  cases ev with
  | reset =>
    cases h
    exact State.Inv.pulseReset s
  | read offset width =>
    cases hloc : locate offset width with
    | error f => cases (perform_read_refused exec s hloc).symm.trans h
    | ok loc =>
      cases (perform_read exec s hloc).symm.trans h
      exact hostRead_keeps_inv hs loc
  | write offset width v =>
    cases hloc : locate offset width with
    | error f => cases (perform_write_refused exec v s hloc).symm.trans h
    | ok loc => exact hostWrite_keeps_inv hloc hs ((perform_write exec v s hloc).symm.trans h)

/-- Settles O9: a step is idle or performs one event, and every event keeps the invariant. -/
theorem stepKeepsInvariant : Obligations.StepKeepsInvariant := by
  intro s t hs h
  cases hp : s.pending with
  | nil =>
    cases (step_idle hp).symm.trans h
    exact hs
  | cons ev rest => exact perform_keeps_inv (hs.setPending rest) ((step_of_pending hp).symm.trans h)

/-- What every step keeps, every run keeps. -/
theorem run_keeps {P : State → Prop} (hstep : ∀ s t, P s → step s = .next t → P t) {n : Nat} {s t : State} (hs : P s)
    (h : Host.Core.run Sys2Proof.core n s = .next t) : P t := by
  induction n generalizing s with
  | zero =>
    cases h
    exact hs
  | succ n ih =>
    simp only [Host.Core.run] at h
    split at h
    · next u hu => exact ih (hstep s u hs hu) h
    · cases h
    · cases h

/-- Settles O10: the Length invariant is part of the invariant, which holds after reset and which every step keeps. -/
theorem reachableLengthCountsPayload : Obligations.ReachableLengthCountsPayload := by
  intro events d n t h
  have hs : State.Inv { State.reset with pending := events, draws := d } :=
    (State.Inv.setHostSide resetMeetsInvariant [] d).setPending events
  have ht : t.Inv := run_keeps stepKeepsInvariant hs h
  simpa only [List.length_eq_zero_iff, Packet.lengthOk] using ht.length_ok

end Sys2Proof.Machine
end

section
/-! PROOF. The writer table of 10_state.md R40: what a command changes of the packet and of the interface, and the tag bits. -/

namespace Sys2Proof.Machine

/-- A command keeps the packet, or writes it, or is a SERIALIZE that stores the checksum. -/
theorem CommandEnds.pkt_cases {i : Instr} {s t : State} (h : CommandEnds s i t) :
    t.pkt = s.pkt ∨ WritesPacket s i t.pkt ∨ (i = .serialize ∧ t.pkt = { s.pkt with checksum := checksum8 s.pkt.body }) := by
  cases h with
  | failed => exact .inl rfl
  | reported => exact .inl rfl
  | packetWritten d hp => exact .inr (.inl hp)
  | emitted => exact .inl rfl
  | serialized => exact .inr (.inr ⟨rfl, rfl⟩)

/-- Settles O14, command by command of those that write the packet. -/
theorem onlyTabledCommandsWritePacketFields : Obligations.OnlyTabledCommandsWritePacketFields := by
  intro i s t h
  obtain hp | hp | ⟨rfl, hp⟩ := (CommandEnds.of_exec h).pkt_cases
  · simp [hp]
  · generalize t.pkt = p at hp
    cases hp with
    | new => simp
    | parse => simp
    | setCommand => simp [Header.withTag]
    | setPayload => simp [Packet.withPayload]
    | setPacketCount => simp
    | setTelemetry => simp [Packet.withPayload, Header.withTag]
  · simp [hp]

theorem CommandEnds.keepsInputs {i : Instr} {s t : State} (h : CommandEnds s i t) : KeepsInputs s t := by
  cases h <;> exact ⟨rfl, rfl, rfl, fun _ => rfl, rfl, rfl⟩

theorem CommandEnds.keepsOutput {i : Instr} {s t : State} (h : CommandEnds s i t) (hi : i.writesOutput = false) :
    KeepsOutput s t := by
  cases h with
  | failed => exact ⟨rfl, fun _ => rfl⟩
  | reported => exact ⟨rfl, fun _ => rfl⟩
  | packetWritten => exact ⟨rfl, fun _ => rfl⟩
  | emitted ho => simp [ho] at hi
  | serialized => cases hi

theorem CommandEnds.keepsResultsFrom {i : Instr} {s t : State} (h : CommandEnds s i t) :
    KeepsResultsFrom i.resultCount s t := by
  intro k hk
  cases h with
  | failed => rfl
  | reported d _ hvs => simp [List.getElem?_eq_none (hvs.trans_le hk)]
  | packetWritten => rfl
  | emitted => rfl
  | serialized => rfl

/-- Settles O15: inputs, output and results each by the ways a command can end. -/
theorem onlyTabledCommandsWriteInterface : Obligations.OnlyTabledCommandsWriteInterface := fun _ _ _ h =>
  ⟨(CommandEnds.of_exec h).keepsInputs, (CommandEnds.of_exec h).keepsOutput, (CommandEnds.of_exec h).keepsResultsFrom⟩

/-! ### The tag bits (10_state.md R37) -/

theorem Header.withTag_exclusive (h : Header) {n : Nat} (hn : n ≤ 2) :
    (h.withTag n).drive.toNat + (h.withTag n).status.toNat + (h.withTag n).sleep.toNat = 1 := by
  obtain rfl | rfl | rfl : n = 0 ∨ n = 1 ∨ n = 2 := by omega
  all_goals rfl

theorem ok_notMem_mayRaise (i : Instr) : Completion.ok ∉ i.mayRaise := by
  cases i <;> decide

theorem writesOutput_of_mutatesPacket {i : Instr} (h : i.mutatesPacket = true) : i.writesOutput = false := by
  revert h
  cases i <;> decide

/-- A mutator that completes with OK has written the packet. -/
theorem writesPacket_of_exec_ok {i : Instr} {s t : State} (hi : i.mutatesPacket = true) (h : exec i s = .next t)
    (hok : t.status = .ok) : WritesPacket s i t.pkt := by
  cases CommandEnds.of_exec h with
  | failed d hc =>
    cases hok
    exact absurd hc (ok_notMem_mayRaise i)
  | reported d hn => simp [hi] at hn
  | packetWritten d hp => exact hp
  | emitted ho => simp [writesOutput_of_mutatesPacket hi] at ho
  | serialized => cases hi

theorem WritesPacket.tag_exclusive {s : State} {i : Instr} {p : Packet} (h : WritesPacket s i p)
    (hi : i = .setCommand ∨ i = .setTelemetry) :
    p.header.drive.toNat + p.header.status.toNat + p.header.sleep.toNat = 1 := by
  cases h with
  | setCommand hn => exact Header.withTag_exclusive _ hn
  | setTelemetry => exact Header.withTag_exclusive s.pkt.header one_le_two
  | _ => simp at hi

theorem WritesPacket.eq_empty_of_new {s : State} {p : Packet} (h : WritesPacket s .new p) : p = Packet.empty := by
  cases h
  rfl

theorem WritesPacket.header_of_parse {s : State} {p : Packet} (h : WritesPacket s .parse p) :
    p.header = decodeHeader (s.inByte 0) (s.inByte 1) (s.inByte 2) (s.inByte 3) := by
  cases h
  rfl

/-- Settles O16: each writer by the packet it writes, every other command by its frame over the packet. -/
theorem tagBitsFollowTheirWriters : Obligations.TagBitsFollowTheirWriters := by
  refine ⟨⟨rfl, rfl, rfl⟩, fun i s t h hok => ⟨fun hi => ?_, ?_, ?_, fun hc ht hn hp => ?_⟩⟩
  · have hm : i.mutatesPacket = true := by obtain rfl | rfl := hi <;> rfl
    exact (writesPacket_of_exec_ok hm h hok).tag_exclusive hi
  · rintro rfl
    rw [(writesPacket_of_exec_ok rfl h hok).eq_empty_of_new]
    exact ⟨rfl, rfl, rfl⟩
  · rintro rfl
    rw [(writesPacket_of_exec_ok rfl h hok).header_of_parse]
    exact ⟨rfl, rfl, rfl⟩
  · obtain ⟨-, hdrive, hstatus, hsleep, -⟩ := onlyTabledCommandsWritePacketFields i s t h
    have hi : ¬(i = .new ∨ i = .parse ∨ i = .setCommand ∨ i = .setTelemetry) := by simp [hc, ht, hn, hp]
    exact ⟨of_not_not (mt hdrive hi), of_not_not (mt hstatus hi), of_not_not (mt hsleep hi)⟩

end Sys2Proof.Machine
end

section
/-! PROOF. A command reads IN_BUF only below IN_LEN (10_state.md R26, 20_memory.md R70). -/

namespace Sys2Proof.Machine

section
variable {s t : State} {m : Memory} (hm : ∀ j, j < s.inLen.toNat → m.read? j = s.inBuf.read? j)
include hm

/-- At the same index of the next free value, a valid byte is the same in both memories. -/
theorem inByte_withInBuf {j : Nat} (hj : j < s.inLen.toNat) : State.inByte { s with inBuf := m } j = s.inByte j := by
  simp only [State.inByte, hm j hj]

theorem inSlice_withInBuf (lo : Nat) {hi : Nat} (h : hi ≤ s.inLen.toNat) :
    State.inSlice { s with inBuf := m } lo hi = s.inSlice lo hi :=
  State.inSlice_congr fun _ _ hj => inByte_withInBuf hm (hj.trans_le h)

theorem input_withInBuf : State.input { s with inBuf := m } = s.input := inSlice_withInBuf hm 0 le_rfl

theorem execParse_withInBuf (h : execParse s = .next t) :
    execParse { s with inBuf := m } = .next { t with inBuf := m } := by
  by_cases h4 : s.inLen.toNat < 4
  · cases (execParse_malformed h4).symm.trans h
    exact execParse_malformed h4
  have hb {j : Nat} (hj : j < 4) : State.inByte { s with inBuf := m } j = s.inByte j := inByte_withInBuf hm (by omega)
  have h3 := hb (show 3 < 4 by decide)
  by_cases h5 : (s.inByte 3).toNat < 5
  · cases (execParse_invalid (Nat.le_of_not_lt h4) h5).symm.trans h
    exact execParse_invalid (Nat.le_of_not_lt h4) (by rwa [h3])
  by_cases hl : s.inLen.toNat < (s.inByte 3).toNat
  · cases (execParse_truncated (Nat.le_of_not_lt h4) (Nat.le_of_not_lt h5) hl).symm.trans h
    exact execParse_truncated (Nat.le_of_not_lt h4) (by rw [h3]; omega) (by rwa [h3])
  · cases (execParse_ok (Nat.le_of_not_lt h5) (Nat.le_of_not_lt hl)).symm.trans h
    rw [execParse_ok (by rw [h3]; omega) (by rw [h3]; exact Nat.le_of_not_lt hl), h3, hb (by decide), hb (by decide),
      hb (by decide), inSlice_withInBuf hm _ (by omega), inByte_withInBuf hm (by omega)]
    rfl

theorem execSetPayload_withInBuf (h : execSetPayload s = .next t) :
    execSetPayload { s with inBuf := m } = .next { t with inBuf := m } := by
  by_cases hl : s.inLen.toNat ≤ 250
  · cases (execSetPayload_ok hl).symm.trans h
    rw [execSetPayload_ok (s := { s with inBuf := m }) hl, input_withInBuf hm]
    rfl
  · cases (execSetPayload_tooLarge (Nat.lt_of_not_le hl)).symm.trans h
    exact execSetPayload_tooLarge (Nat.lt_of_not_le hl)

theorem execHdrDecode_withInBuf (h : execHdrDecode s = .next t) :
    execHdrDecode { s with inBuf := m } = .next { t with inBuf := m } := by
  by_cases hl : s.inLen.toNat < 4
  · cases (execHdrDecode_malformed hl).symm.trans h
    exact execHdrDecode_malformed hl
  · have hb {j : Nat} (hj : j < 4) : State.inByte { s with inBuf := m } j = s.inByte j := inByte_withInBuf hm (by omega)
    cases (execHdrDecode_ok (Nat.le_of_not_lt hl)).symm.trans h
    rw [execHdrDecode_ok (s := { s with inBuf := m }) (Nat.le_of_not_lt hl)]
    simp (disch := decide) only [hb]
    rfl

theorem execCkCompute_withInBuf (h : execCkCompute s = .next t) :
    execCkCompute { s with inBuf := m } = .next { t with inBuf := m } := by
  cases h
  simp only [execCkCompute, input_withInBuf hm]
  rfl

theorem execCkVerify_withInBuf (h : execCkVerify s = .next t) :
    execCkVerify { s with inBuf := m } = .next { t with inBuf := m } := by
  by_cases hl : s.argFull 0 < s.inLen.toNat
  · cases (execCkVerify_ok hl).symm.trans h
    have ha : State.argFull { s with inBuf := m } 0 = s.argFull 0 := rfl
    rw [execCkVerify_ok (s := { s with inBuf := m }) hl, ha, inSlice_withInBuf hm 0 hl.le, inByte_withInBuf hm hl]
    rfl
  · cases (execCkVerify_truncated (Nat.le_of_not_lt hl)).symm.trans h
    exact execCkVerify_truncated (Nat.le_of_not_lt hl)

theorem execDriveDecode_withInBuf (h : execDriveDecode s = .next t) :
    execDriveDecode { s with inBuf := m } = .next { t with inBuf := m } := by
  by_cases hl : s.inLen.toNat = 3
  · have hb {j : Nat} (hj : j < 3) : State.inByte { s with inBuf := m } j = s.inByte j := inByte_withInBuf hm (by omega)
    cases (execDriveDecode_ok hl).symm.trans h
    rw [execDriveDecode_ok (s := { s with inBuf := m }) hl]
    simp (disch := decide) only [hb]
    rfl
  · cases (execDriveDecode_size hl).symm.trans h
    exact execDriveDecode_size hl

theorem execTelemDecode_withInBuf (h : execTelemDecode s = .next t) :
    execTelemDecode { s with inBuf := m } = .next { t with inBuf := m } := by
  by_cases hl : s.inLen.toNat = 9
  · have hb {j : Nat} (hj : j < 9) : State.inByte { s with inBuf := m } j = s.inByte j := inByte_withInBuf hm (by omega)
    cases (execTelemDecode_ok hl).symm.trans h
    rw [execTelemDecode_ok (s := { s with inBuf := m }) hl]
    simp (disch := decide) only [hb]
    rfl
  · cases (execTelemDecode_size hl).symm.trans h
    exact execTelemDecode_size hl

end

theorem execSerialize_withInBuf {s t : State} (m : Memory) (h : execSerialize s = .next t) :
    execSerialize { s with inBuf := m } = .next { t with inBuf := m } := by
  by_cases hl : s.pkt.header.length.toNat < 5
  · cases (execSerialize_invalid hl).symm.trans h
    exact execSerialize_invalid hl
  · cases (execSerialize_ok (Nat.le_of_not_lt hl)).symm.trans h
    exact execSerialize_ok (Nat.le_of_not_lt hl)

theorem execSetCommand_withInBuf {s t : State} (m : Memory) (h : execSetCommand s = .next t) :
    execSetCommand { s with inBuf := m } = .next { t with inBuf := m } := by
  by_cases hl : s.argFull 0 ≤ 2
  · cases (execSetCommand_ok hl).symm.trans h
    exact execSetCommand_ok hl
  · cases (execSetCommand_invalid (Nat.lt_of_not_le hl)).symm.trans h
    exact execSetCommand_invalid (Nat.lt_of_not_le hl)

theorem execGetTelemetry_withInBuf {s t : State} (m : Memory) (h : execGetTelemetry s = .next t) :
    execGetTelemetry { s with inBuf := m } = .next { t with inBuf := m } := by
  cases hr : s.pkt.telemetry? with
  | some r =>
    cases (execGetTelemetry_some hr).symm.trans h
    exact execGetTelemetry_some hr
  | none =>
    cases (execGetTelemetry_none hr).symm.trans h
    exact execGetTelemetry_none hr

/-- Settles O19: the seven commands that read IN_BUF read it only below IN_LEN, and the others do not look at it. -/
theorem commandsReadOnlyValidInput : Obligations.CommandsReadOnlyValidInput := by
  intro i s t m hm h
  cases i with
  | parse => exact execParse_withInBuf hm h
  | setPayload => exact execSetPayload_withInBuf hm h
  | hdrDecode => exact execHdrDecode_withInBuf hm h
  | ckCompute => exact execCkCompute_withInBuf hm h
  | ckVerify => exact execCkVerify_withInBuf hm h
  | driveDecode => exact execDriveDecode_withInBuf hm h
  | telemDecode => exact execTelemDecode_withInBuf hm h
  | serialize => exact execSerialize_withInBuf m h
  | setCommand => exact execSetCommand_withInBuf m h
  | getTelemetry => exact execGetTelemetry_withInBuf m h
  | _ => cases h; rfl

end Sys2Proof.Machine
end

section
/-! PROOF. Single steps and the reset values. -/

namespace Sys2Proof.Machine

/-- A step whose next event is an admitted write. -/
theorem step_write {offset width : Nat} {loc : Location} {v : Word} {s : State} {rest : List HostEvent}
    (hp : s.pending = .write offset width v :: rest) (hloc : locate offset width = .ok loc) :
    step s = hostWrite exec loc v (s.setPending rest) :=
  (step_of_pending hp).trans (perform_write exec v _ hloc)

/-- Settles O3: the write lands at CMD, which runs the command the word decodes to. -/
theorem stepRunsDecodedCommand : Obligations.StepRunsDecodedCommand := by
  intro s rest w i hp hw _
  rw [step_write hp locate_cmd, hostWrite, issueCommand, hw]
  rfl

/-- Settles O6, from the reset state as written. -/
theorem resetValues : Obligations.ResetValues :=
  ⟨rfl, by decide, by decide, rfl, rfl, rfl, rfl, fun _ => rfl, fun _ => rfl, rfl, rfl, rfl, rfl, rfl, rfl, rfl, rfl, rfl⟩

/-- Settles O56: each clause by the place where the write lands. -/
theorem hostWritesStoreOrAreIgnored : Obligations.HostWritesStoreOrAreIgnored := by
  refine fun s rest v => ⟨fun i hp => ?_, fun j hj hp => ?_, fun hp => step_write hp locate_status,
    fun hp => step_write hp locate_outLen, fun i hp => step_write hp (locate_res i),
    fun j hj hp => step_write hp (locate_outBuf hj)⟩
  · refine ⟨_, step_write hp (locate_arg i), rfl, ?_, fun k hk => ?_⟩
    · simp
    · simp [Fin.val_ne_of_ne hk.symm]
  · refine ⟨_, step_write hp (locate_inBuf hj), rfl, ?_, fun k hk => ?_⟩
    · simp
    · exact Memory.read?_write_ne _ _ hk

end Sys2Proof.Machine
end

section
/-! PROOF. What a command does is fixed by what it reads: ARG, IN_LEN, the packet and the valid bytes of IN_BUF. So neither the index
of the next free value nor the old output has an influence. -/

namespace Sys2Proof.Machine

/-- What a command does to a state, as a function of that state: it fails, it reports results, it stores a packet, or it emits bytes
(and stores a packet: SERIALIZE stores the checksum). `drawn` is by how much the index of the next free value advances. -/
inductive Effect where
  | fail (drawn : Nat) (c : Completion)
  | report (drawn : Nat) (vs : List Word)
  | store (drawn : Nat) (p : Packet)
  | emit (p : Packet) (bytes : List Byte)

namespace Effect

/-- The state an effect leaves. -/
def apply (e : Effect) (s : State) : State :=
  match e with
  | fail drawn c => State.setStatus { s with draws := s.draws + drawn } c
  | report drawn vs => (State.setResults { s with draws := s.draws + drawn } vs).setStatus .ok
  | store drawn p => (State.setPacket { s with draws := s.draws + drawn } p).setStatus .ok
  | emit p bytes => ((s.setPacket p).emitOut bytes).setStatus .ok

/-- The effects a command may have: its own error codes, and output from the output commands only. -/
def fits (i : Instr) (e : Effect) : Bool :=
  match e with
  | fail _ c => i.mayRaise.contains c
  | report _ _ => !i.writesOutput
  | store _ _ => !i.writesOutput
  | emit _ _ => i.writesOutput

/-- From another index of the next free value an effect leaves the same state, but for that index. -/
theorem apply_withDraws (e : Effect) (s : State) (d : Nat) :
    ∃ d', e.apply { s with draws := d } = { e.apply s with draws := d' } := by
  cases e <;> exact ⟨_, rfl⟩

/-- The output of a successful output command replaces the old one (20_memory.md R71). -/
theorem apply_withOutput_of_emits {i : Instr} {e : Effect} {s : State} (he : e.fits i = true) (hi : i.writesOutput = true)
    (hok : (e.apply s).status = .ok) (m : Memory) (n : Word) :
    e.apply { s with outBuf := m, outLen := n } = e.apply s := by
  cases e with
  | fail drawn c =>
    cases hok
    exact absurd (List.mem_of_elem_eq_true he) (ok_notMem_mayRaise i)
  | report => simp [fits, hi] at he
  | store => simp [fits, hi] at he
  | emit => rfl

/-- Every other command leaves the output. -/
theorem apply_withOutput_of_keeps {i : Instr} {e : Effect} (he : e.fits i = true) (hi : i.writesOutput = false) (s : State)
    (m : Memory) (n : Word) :
    e.apply { s with outBuf := m, outLen := n } = { e.apply s with outBuf := m, outLen := n } := by
  cases e with
  | fail => rfl
  | report => rfl
  | store => rfl
  | emit => simp [fits, hi] at he

end Effect

/-- `u` with the registers a command reads, and the packet, taken from `s`. -/
def State.readingAs (u s : State) : State := { u with arg := s.arg, inLen := s.inLen, pkt := s.pkt }

/-- `e` is the effect of command `i` on every state in which it reads what it reads in `s`. -/
def HasEffect (i : Instr) (s : State) (e : Effect) : Prop :=
  e.fits i = true ∧ ∀ u : State, (∀ j, j < s.inLen.toNat → u.inByte j = s.inByte j) →
    exec i (u.readingAs s) = .next (e.apply (u.readingAs s))

/-! ### The commands that read IN_BUF -/

theorem input_readingAs {s u : State} (hu : ∀ j, j < s.inLen.toNat → u.inByte j = s.inByte j) :
    (u.readingAs s).input = s.input :=
  State.inSlice_congr fun j _ hj => hu j hj

theorem parse_hasEffect (s : State) : ∃ e, HasEffect .parse s e := by
  by_cases h4 : s.inLen.toNat < 4
  · exact ⟨.fail 0 .malformedHeader, rfl, fun u _ => execParse_malformed h4⟩
  have hb {u : State} (hu : ∀ j, j < s.inLen.toNat → u.inByte j = s.inByte j) {j : Nat} (hj : j < 4) :
      (u.readingAs s).inByte j = s.inByte j := hu j (by omega)
  by_cases h5 : (s.inByte 3).toNat < 5
  · exact ⟨.fail 1 .invalidLength, rfl, fun u hu =>
      execParse_invalid (Nat.le_of_not_lt h4) (by rwa [hb hu (by decide)])⟩
  by_cases hl : s.inLen.toNat < (s.inByte 3).toNat
  · exact ⟨.fail 1 .truncatedPacket, rfl, fun u hu => execParse_truncated (Nat.le_of_not_lt h4)
      (by rw [hb hu (by decide)]; exact Nat.le_of_not_lt h5) (by rwa [hb hu (by decide)])⟩
  · refine ⟨.store 1
      { header := decodeHeader (s.inByte 0) (s.inByte 1) (s.inByte 2) (s.inByte 3)
        payload := s.inSlice 4 ((s.inByte 3).toNat - 1)
        checksum := s.inByte ((s.inByte 3).toNat - 1) }, rfl, fun u hu => ?_⟩
    have h3 := hb hu (show 3 < 4 by decide)
    have hlast : (u.readingAs s).inByte ((s.inByte 3).toNat - 1) = s.inByte ((s.inByte 3).toNat - 1) := hu _ (by omega)
    have hslice : (u.readingAs s).inSlice 4 ((s.inByte 3).toNat - 1) = s.inSlice 4 ((s.inByte 3).toNat - 1) :=
      State.inSlice_congr fun j _ hj => hu j (by omega)
    have h := execParse_ok (s := u.readingAs s) (by rw [h3]; omega) (by rw [h3]; exact Nat.le_of_not_lt hl)
    rw [h3, hb hu (by decide), hb hu (by decide), hb hu (by decide), hslice, hlast] at h
    exact h

theorem setPayload_hasEffect (s : State) : ∃ e, HasEffect .setPayload s e := by
  by_cases hl : s.inLen.toNat ≤ 250
  · refine ⟨.store 1 (s.pkt.withPayload s.input), rfl, fun u hu => ?_⟩
    rw [← input_readingAs hu]
    exact execSetPayload_ok hl
  · exact ⟨.fail 0 .payloadTooLarge, rfl, fun u _ => execSetPayload_tooLarge (Nat.lt_of_not_le hl)⟩

theorem hdrDecode_hasEffect (s : State) : ∃ e, HasEffect .hdrDecode s e := by
  by_cases hl : s.inLen.toNat < 4
  · exact ⟨.fail 0 .malformedHeader, rfl, fun u _ => execHdrDecode_malformed hl⟩
  · refine ⟨.report 1
      [zext32 (be16 (s.inByte 0) (s.inByte 1)), boolWord ((s.inByte 2).getLsbD 7), boolWord ((s.inByte 2).getLsbD 6),
        boolWord ((s.inByte 2).getLsbD 5), boolWord ((s.inByte 2).getLsbD 4), zext32 ((s.inByte 2).extractLsb' 0 4),
        zext32 (s.inByte 3)], rfl, fun u hu => ?_⟩
    have hb {j : Nat} (hj : j < 4) : (u.readingAs s).inByte j = s.inByte j := hu j (by omega)
    have h := execHdrDecode_ok (s := u.readingAs s) (Nat.le_of_not_lt hl)
    simp (disch := decide) only [hb] at h
    exact h

theorem ckCompute_hasEffect (s : State) : ∃ e, HasEffect .ckCompute s e := by
  refine ⟨.report 1 [zext32 (checksum8 s.input)], rfl, fun u hu => ?_⟩
  rw [← input_readingAs hu]
  rfl

theorem ckVerify_hasEffect (s : State) : ∃ e, HasEffect .ckVerify s e := by
  by_cases hl : s.argFull 0 < s.inLen.toNat
  · refine ⟨.report 1 [boolWord (checksum8 (s.inSlice 0 (s.argFull 0)) == s.inByte (s.argFull 0)),
      zext32 (checksum8 (s.inSlice 0 (s.argFull 0)))], rfl, fun u hu => ?_⟩
    have hslice : (u.readingAs s).inSlice 0 (s.argFull 0) = s.inSlice 0 (s.argFull 0) :=
      State.inSlice_congr fun j _ hj => hu j (hj.trans hl)
    rw [← hslice, ← hu _ hl]
    exact execCkVerify_ok hl
  · exact ⟨.fail 0 .truncatedPacket, rfl, fun u _ => execCkVerify_truncated (Nat.le_of_not_lt hl)⟩

theorem driveDecode_hasEffect (s : State) : ∃ e, HasEffect .driveDecode s e := by
  by_cases hl : s.inLen.toNat = 3
  · refine ⟨.report 1 [zext32 (s.inByte 0), zext32 (s.inByte 1), zext32 (s.inByte 2)], rfl, fun u hu => ?_⟩
    rw [← hu 0 (by omega), ← hu 1 (by omega), ← hu 2 (by omega)]
    exact execDriveDecode_ok hl
  · exact ⟨.fail 0 .invalidPayloadSize, rfl, fun u _ => execDriveDecode_size hl⟩

theorem telemDecode_hasEffect (s : State) : ∃ e, HasEffect .telemDecode s e := by
  by_cases hl : s.inLen.toNat = 9
  · refine ⟨.report 1 (telemetryResults (telemetryFields (s.inByte 0) (s.inByte 1) (s.inByte 2) (s.inByte 3) (s.inByte 4)
      (s.inByte 5) (s.inByte 6) (s.inByte 7) (s.inByte 8))), rfl, fun u hu => ?_⟩
    have hb {j : Nat} (hj : j < 9) : (u.readingAs s).inByte j = s.inByte j := hu j (by omega)
    have h := execTelemDecode_ok (s := u.readingAs s) hl
    simp (disch := decide) only [hb] at h
    exact h
  · exact ⟨.fail 0 .invalidPayloadSize, rfl, fun u _ => execTelemDecode_size hl⟩

/-! ### The other commands that check before they act -/

theorem serialize_hasEffect (s : State) : ∃ e, HasEffect .serialize s e := by
  by_cases h : s.pkt.header.length.toNat < 5
  · exact ⟨.fail 0 .invalidLength, rfl, fun u _ => execSerialize_invalid h⟩
  · exact ⟨.emit { s.pkt with checksum := checksum8 s.pkt.body } s.pkt.wire, rfl,
      fun u _ => execSerialize_ok (Nat.le_of_not_lt h)⟩

theorem setCommand_hasEffect (s : State) : ∃ e, HasEffect .setCommand s e := by
  by_cases h : s.argFull 0 ≤ 2
  · exact ⟨.store 0 { s.pkt with header := s.pkt.header.withTag (s.argFull 0) }, rfl, fun u _ => execSetCommand_ok h⟩
  · exact ⟨.fail 0 .invalidOperand, rfl, fun u _ => execSetCommand_invalid (Nat.lt_of_not_le h)⟩

theorem getTelemetry_hasEffect (s : State) : ∃ e, HasEffect .getTelemetry s e := by
  cases h : s.pkt.telemetry? with
  | some r => exact ⟨.report 0 (telemetryResults r), rfl, fun u _ => execGetTelemetry_some h⟩
  | none => exact ⟨.fail 0 .noTelemetry, rfl, fun u _ => execGetTelemetry_none h⟩

/-! ### All commands -/

theorem exec_hasEffect (i : Instr) (s : State) : ∃ e, HasEffect i s e := by
  cases i with
  | new => exact ⟨.store 0 .empty, rfl, fun _ _ => rfl⟩
  | parse => exact parse_hasEffect s
  | serialize => exact serialize_hasEffect s
  | setCommand => exact setCommand_hasEffect s
  | setPayload => exact setPayload_hasEffect s
  | setPacketCount => exact ⟨.store 0 { s.pkt with header := { s.pkt.header with count := s.argField 0 16 } }, rfl, fun _ _ => rfl⟩
  | setTelemetry => exact ⟨.store 0
      (.withPayload { s.pkt with header := s.pkt.header.withTag 1 } (telemetryBytes s.telemetryArgs)), rfl, fun _ _ => rfl⟩
  | getCommand => exact ⟨.report 0 [s.pkt.header.tagCode], rfl, fun _ _ => rfl⟩
  | getAck => exact ⟨.report 0 [boolWord s.pkt.header.ack], rfl, fun _ _ => rfl⟩
  | getLength => exact ⟨.report 0 [zext32 s.pkt.header.length], rfl, fun _ _ => rfl⟩
  | getPayload => exact ⟨.emit s.pkt s.pkt.payload, rfl, fun _ _ => rfl⟩
  | getPacketCount => exact ⟨.report 0 [zext32 s.pkt.header.count], rfl, fun _ _ => rfl⟩
  | hasTelemetry => exact ⟨.report 0 [boolWord s.pkt.hasTelemetry], rfl, fun _ _ => rfl⟩
  | getTelemetry => exact getTelemetry_hasEffect s
  | getChecksum => exact ⟨.report 0 [zext32 s.pkt.checksum], rfl, fun _ _ => rfl⟩
  | hdrDecode => exact hdrDecode_hasEffect s
  | hdrEncode => exact ⟨.emit s.pkt (encodeHeader
      { count := s.argField 0 16, drive := s.argFlag 1, status := s.argFlag 2, sleep := s.argFlag 3, ack := s.argFlag 4,
        pad := s.argField 5 4, length := s.argField 6 8 }), rfl, fun _ _ => rfl⟩
  | ckCompute => exact ckCompute_hasEffect s
  | ckVerify => exact ckVerify_hasEffect s
  | driveDecode => exact driveDecode_hasEffect s
  | driveEncode => exact ⟨.emit s.pkt (driveBytes
      { direction := s.argField 0 8, duration := s.argField 1 8, speed := s.argField 2 8 }), rfl, fun _ _ => rfl⟩
  | telemDecode => exact telemDecode_hasEffect s
  | telemEncode => exact ⟨.emit s.pkt (telemetryBytes s.telemetryArgs), rfl, fun _ _ => rfl⟩

/-- All that a command can do: one effect gives its next state, and its next state wherever it reads the same. -/
theorem exists_effect_of_exec {i : Instr} {s t : State} (h : exec i s = .next t) :
    ∃ e : Effect, HasEffect i s e ∧ t = e.apply s := by
  obtain ⟨e, hfits, he⟩ := exec_hasEffect i s
  have hs : exec i s = .next (e.apply s) := he s fun _ _ => rfl
  cases h.symm.trans hs
  exact ⟨e, ⟨hfits, he⟩, rfl⟩

/-- A byte the host has written is the same at any index of the next free value. -/
theorem inByte_withDraws {s : State} {j : Nat} (h : (s.inBuf.read? j).isSome = true) (d : Nat) :
    State.inByte { s with draws := d } j = s.inByte j := by
  obtain ⟨b, hb⟩ := Option.isSome_iff_exists.mp h
  rw [State.inByte_of_read hb]
  exact State.inByte_of_read hb

/-- Settles O20: with every valid byte written, the index of the next free value changes nothing that a command reads. -/
theorem writtenInputLeavesNothingFree : Obligations.WrittenInputLeavesNothingFree := by
  intro i s t d hin h
  obtain ⟨e, ⟨-, he⟩, rfl⟩ := exists_effect_of_exec h
  obtain ⟨d', hd⟩ := e.apply_withDraws s d
  exact ⟨d', hd ▸ he { s with draws := d } fun j hj => inByte_withDraws (hin j hj) d⟩

/-- Settles O21: no command reads the output, so its effect is the same with any. -/
theorem outputCommandsSupersede : Obligations.OutputCommandsSupersede := by
  intro i s t m n h
  obtain ⟨e, ⟨hfits, he⟩, rfl⟩ := exists_effect_of_exec h
  have hsame := he { s with outBuf := m, outLen := n } fun _ _ => rfl
  exact ⟨fun hi hok => Effect.apply_withOutput_of_emits hfits hi hok m n ▸ hsame,
    fun hi => Effect.apply_withOutput_of_keeps hfits hi s m n ▸ hsame⟩

end Sys2Proof.Machine
end

section
/-! PROOF. The register window: which accesses it admits, and what the host reads. -/

namespace Sys2Proof.Machine

/-! ### Admitted accesses (20_memory.md R53, R54, R56) -/

theorem reservedOffset_iff (offset : Nat) : reservedOffset offset = true ↔
    (0x010 ≤ offset ∧ offset ≤ 0x01F) ∨ (0x060 ≤ offset ∧ offset ≤ 0x0FF) ∨ (0x300 ≤ offset ∧ offset ≤ 0x3FF) := by
  simp [reservedOffset, or_assoc]

/-- Each branch of `locate` is taken under arithmetic conditions on the access, which decide on both sides whether it is admitted. -/
theorem exists_locate_ok_iff (offset width : Nat) : (∃ loc, locate offset width = .ok loc) ↔
    (offset < 0x010 ∨ (0x020 ≤ offset ∧ offset < 0x060)) ∧ width = 4 ∧ offset % 4 = 0 ∨
      (0x100 ≤ offset ∧ offset < 0x300) ∧ width = 1 := by
  simp only [locate, Config.windowSize, reservedOffset_iff]
  split_ifs <;> simp only [exists_false, false_iff, Except.ok.injEq, exists_eq', true_iff] <;> omega

/-- An access that lands nowhere has a reason. -/
theorem locate_error_of_not_ok {offset width : Nat} (h : ∀ loc, locate offset width ≠ .ok loc) :
    ∃ f, locate offset width = .error f := by
  cases hl : locate offset width with
  | error f => exact ⟨f, rfl⟩
  | ok loc => exact absurd hl (h loc)

/-- Settles O54: the admitted set by the checks of `locate` in turn, and any other access by the reason `locate` gives. -/
theorem refusedAccessesAreStuck : Obligations.RefusedAccessesAreStuck := by
  refine fun s rest offset width v => ⟨propext (exists_locate_ok_iff offset width).symm, fun h => ?_⟩
  obtain ⟨f, hf⟩ := locate_error_of_not_ok h
  exact ⟨fun hp => ⟨f, (step_of_pending hp).trans (perform_read_refused exec _ hf)⟩,
    fun hp => ⟨f, (step_of_pending hp).trans (perform_write_refused exec v _ hf)⟩⟩

/-- Settles O55: the write lands at IN_LEN, which checks the value against the buffer's size. -/
theorem inLenWriteIsBounded : Obligations.InLenWriteIsBounded := by
  intro s rest v hp
  rw [step_write hp locate_inLen]
  exact ⟨fun hv => if_pos hv, fun hv => if_neg (Nat.not_lt.mpr hv)⟩

/-! ### Host reads (20_memory.md R57, R58) -/

/-- A step whose next event is an admitted read. -/
theorem step_read {offset width : Nat} {loc : Location} {s : State} {rest : List HostEvent}
    (hp : s.pending = .read offset width :: rest) (hloc : locate offset width = .ok loc) :
    step s = .next (hostRead loc (s.setPending rest)) :=
  (step_of_pending hp).trans (perform_read exec _ hloc)

/-- Settles O57: each clause by the place where the read lands, STATUS by its nine codes. -/
theorem registerReadsReturnTheRegister : Obligations.RegisterReadsReturnTheRegister := by
  intro s rest offset hp
  refine ⟨?_, ?_, ?_, ?_, fun i => ?_, fun i => ?_⟩ <;> rintro rfl
  · exact step_read hp locate_cmd
  · rw [step_read hp locate_status]
    simp only [hostRead, State.receive, State.statusWord, State.status_setPending]
    cases s.status <;> rfl
  · exact step_read hp locate_inLen
  · exact step_read hp locate_outLen
  · exact step_read hp (locate_arg i)
  · exact step_read hp (locate_res i)

/-- The host receives one byte, which is the known one if there is one, and only then no draw is used up. -/
theorem State.receiveByte_cases (s : State) (known : Option Byte) (j : Nat) :
    ∃ b : Byte, s.receiveByte known j =
        { s with received := s.received ++ [b.setWidth 32], draws := (s.receiveByte known j).draws } ∧
      ∀ k, known = some k → b = k ∧ (s.receiveByte known j).draws = s.draws := by
  cases known with
  | some k => exact ⟨k, rfl, fun _ hk => ⟨Option.some.inj hk, rfl⟩⟩
  | none => exact ⟨Config.drawByte s.draws j, rfl, nofun⟩

/-- A byte of OUT_BUF below OUT_LEN is known where it is listed (20_memory.md R57 b). -/
theorem State.outByte?_of_lt {s : State} {j : Nat} (h : j < s.outLen.toNat) : s.outByte? j = s.outBuf.read? j :=
  if_pos h

/-- Settles O58: a read of either buffer receives one byte, the known one where there is one. -/
theorem bufferReadsReturnTheByteOrADraw : Obligations.BufferReadsReturnTheByteOrADraw := by
  refine fun s rest j hj => ⟨fun hp => ?_, fun hp => ?_⟩
  · obtain ⟨b, ht, hb⟩ := (s.setPending rest).receiveByte_cases (s.inBuf.read? j) j
    exact ⟨_, b, step_read hp (locate_inBuf hj), ht, hb⟩
  · obtain ⟨b, ht, hb⟩ := (s.setPending rest).receiveByte_cases (s.outByte? j) j
    exact ⟨_, b, step_read hp (locate_outBuf hj), ht,
      fun known hl hk => hb known ((State.outByte?_of_lt hl).trans hk)⟩

end Sys2Proof.Machine
end

section
/-! PROOF. The command word (30_encoding.md R80 to R84): its two fields, the opcode map and its inverse, and which words
select a command. -/

namespace Sys2Proof

/-! ### The two fields (R80) -/

@[simp] theorem rsvField_encode (i : Instr) : rsvField (encode i) = 0#24 := BitVec.extractLsb'_append_eq_left

@[simp] theorem opcField_encode (i : Instr) : opcField (encode i) = opcode i := BitVec.extractLsb'_append_eq_right

/-- A word is its two fields. -/
theorem rsvField_append_opcField (w : Word) : rsvField w ++ opcField w = w :=
  (BitVec.extractLsb'_append_extractLsb'_eq_extractLsb' (by decide)).trans BitVec.extractLsb'_eq_self

theorem toNat_opcField (w : Word) : (opcField w).toNat = w.toNat % 256 := by
  simp [opcField, BitVec.extractLsb'_toNat]

theorem rsvField_eq_zero_iff (w : Word) : rsvField w = 0#24 ↔ w.toNat / 256 = 0 := by
  have hw := w.isLt
  rw [← BitVec.toNat_inj, rsvField, BitVec.extractLsb'_toNat, Nat.shiftRight_eq_div_pow]
  simp only [BitVec.toNat_ofNat]
  omega

/-! ### The opcode map (R82, R84) -/

theorem commandOf?_opcode (i : Instr) : commandOf? (opcode i) = some i := by
  cases i <;> rfl

/-- No second opcode selects a command: each row of the map holds the command's own opcode. -/
theorem opcode_of_commandOf? {opc : Byte} {i : Instr} (h : commandOf? opc = some i) : opcode i = opc := by
  unfold commandOf? at h
  split at h <;> cases h <;> rfl

/-- The reserved ranges of R84 are the opcodes that the map of R82 leaves out: the 256 opcodes one by one. -/
theorem isSome_commandOf?_iff (opc : Byte) : (commandOf? opc).isSome = true ↔ reservedOpcodeRange opc.toNat = false := by
  revert opc
  decide

/-! ### The decoder (R81) -/

theorem decode_eq_ok_iff (w : Word) (i : Instr) :
    decode w = .ok i ↔ rsvField w = 0#24 ∧ commandOf? (opcField w) = some i := by
  unfold decode
  by_cases hrsv : rsvField w = 0#24
  · cases hopc : commandOf? (opcField w) <;> simp [hrsv]
  · simp [hrsv]

theorem decode_encode (i : Instr) : decode (encode i) = .ok i := by
  simp [decode_eq_ok_iff, commandOf?_opcode]

theorem encode_of_decode {w : Word} {i : Instr} (h : decode w = .ok i) : encode i = w := by
  obtain ⟨hrsv, hopc⟩ := (decode_eq_ok_iff w i).mp h
  rw [encode, opcode_of_commandOf? hopc, ← hrsv, rsvField_append_opcField]

/-- The words that select a command are those whose reserved bits are 0 and whose opcode is not reserved. -/
theorem exists_decode_ok_iff (w : Word) :
    (∃ i, decode w = .ok i) ↔ w.toNat / 256 = 0 ∧ reservedOpcodeRange (w.toNat % 256) = false := by
  simp only [decode_eq_ok_iff, exists_and_left, ← Option.isSome_iff_exists, isSome_commandOf?_iff, toNat_opcField,
    rsvField_eq_zero_iff]

/-- Settles O2: the opcode map inverts `opcode` both ways, and a word is its two fields. -/
theorem decodeAndEncodeAgree : Obligations.DecodeAndEncodeAgree :=
  ⟨fun i _ => decode_encode i, fun _ _ => encode_of_decode⟩

/-- Settles O1: each word is the encoding of its command. -/
theorem tabledWordsDecode : Obligations.TabledWordsDecode :=
  ⟨decode_encode .new, decode_encode .parse, decode_encode .serialize, decode_encode .setTelemetry,
    decode_encode .getChecksum, decode_encode .hdrEncode, decode_encode .ckVerify, decode_encode .driveDecode⟩

end Sys2Proof

namespace Sys2Proof.Machine

/-- A word that selects no command changes only STATUS and CMD (30_encoding.md R81; log entry 12). -/
theorem step_cmd_illegal {s : State} {rest : List HostEvent} {w : Word} (hp : s.pending = .write 0x000 4 w :: rest)
    (hw : ¬∃ i, decode w = .ok i) : step s = .next { s with pending := rest, cmd := w, status := .illegalCommand } := by
  obtain ⟨i, hi, -⟩ | ⟨e, -, he⟩ := issueCommand_cases exec w (s.setPending rest)
  · exact absurd ⟨i, hi⟩ hw
  · exact (step_write hp locate_cmd).trans he

/-- Settles O4: the words that select a command, by `exists_decode_ok_iff`, and the step of each kind of word. -/
theorem commandWriteRunsOneCommandOrIsIllegal : Obligations.CommandWriteRunsOneCommandOrIsIllegal := by
  refine fun s rest w hp => ⟨fun hill => step_cmd_illegal hp fun hw => ?_, fun hrsv hopc => ?_⟩
  · obtain ⟨hrsv, hopc⟩ := (exists_decode_ok_iff w).mp hw
    simp [hrsv, hopc] at hill
  · obtain ⟨i, hi⟩ := (exists_decode_ok_iff w).mpr ⟨hrsv, hopc⟩
    exact ⟨i, fun j => by simp [hi, eq_comm], stepRunsDecodedCommand s rest w i hp hi (by cases i <;> rfl)⟩

end Sys2Proof.Machine
end

section
/-! PROOF. A command uses only the operand bits of its row (30_encoding.md R94, R95). -/

namespace Sys2Proof.Machine

/-- The answer `r` with another operand file in its state. -/
def withArg (a : Vector Word 8) (r : Result) : Result :=
  match r with
  | .next t => .next { t with arg := a }
  | .fault f => .fault f
  | .refused f => .refused f

section
variable {a : Vector Word 8} {s : State}

/-! ### Operands that agree in the bits used (R95) -/

theorem argField_withArg {k : Fin 8} (w : Nat) (h : a[k].toNat % 2 ^ w = s.arg[k].toNat % 2 ^ w) :
    State.argField { s with arg := a } k w = s.argField k w :=
  BitVec.eq_of_toNat_eq (by simpa only [State.toNat_argField] using h)

/-- A 1-bit operand is the only bit of the operand of width 1. -/
theorem State.argFlag_eq_getLsbD_argField (s : State) (k : Fin 8) : s.argFlag k = (s.argField k 1).getLsbD 0 := by
  simp [State.argFlag, State.argField]

theorem argFlag_withArg {k : Fin 8} (h : a[k].toNat % 2 ^ 1 = s.arg[k].toNat % 2 ^ 1) :
    State.argFlag { s with arg := a } k = s.argFlag k := by
  rw [State.argFlag_eq_getLsbD_argField, argField_withArg 1 h, State.argFlag_eq_getLsbD_argField]

theorem argFull_withArg {k : Fin 8} (h : a[k].toNat % 2 ^ 32 = s.arg[k].toNat % 2 ^ 32) :
    State.argFull { s with arg := a } k = s.argFull k := by
  rwa [Nat.mod_eq_of_lt a[k].isLt, Nat.mod_eq_of_lt s.arg[k].isLt] at h

theorem telemetryArgs_withArg (h : ∀ k : Fin 8,
      a[k].toNat % 2 ^ Instr.operandWidth .telemEncode k = s.arg[k].toNat % 2 ^ Instr.operandWidth .telemEncode k) :
    State.telemetryArgs { s with arg := a } = s.telemetryArgs := by
  simp only [State.telemetryArgs, argField_withArg 16 (h 0), argField_withArg 16 (h 1), argField_withArg 16 (h 2),
    argField_withArg 8 (h 3), argField_withArg 8 (h 4), argField_withArg 8 (h 5)]

/-! ### All commands -/

/-- Where the operand files agree in the bits a command uses, its checks are the same, and so is what it does in each branch. -/
theorem exec_withArg (i : Instr)
    (h : ∀ k : Fin 8, a[k].toNat % 2 ^ i.operandWidth k.val = s.arg[k].toNat % 2 ^ i.operandWidth k.val) :
    exec i { s with arg := a } = withArg a (exec i s) := by
  cases i with
  | setCommand =>
    simp only [exec, execSetCommand, argFull_withArg (h 0), apply_ite (withArg a)]
    rfl
  | ckVerify =>
    simp only [exec, execCkVerify, argFull_withArg (h 0), apply_ite (withArg a)]
    rfl
  | setPacketCount =>
    simp only [exec, execSetPacketCount, argField_withArg 16 (h 0)]
    rfl
  | setTelemetry =>
    simp only [exec, execSetTelemetry, telemetryArgs_withArg h]
    rfl
  | telemEncode =>
    simp only [exec, execTelemEncode, telemetryArgs_withArg h]
    rfl
  | driveEncode =>
    simp only [exec, execDriveEncode, argField_withArg 8 (h 0), argField_withArg 8 (h 1), argField_withArg 8 (h 2)]
    rfl
  | hdrEncode =>
    simp only [exec, execHdrEncode, argField_withArg 16 (h 0), argFlag_withArg (h 1), argFlag_withArg (h 2),
      argFlag_withArg (h 3), argFlag_withArg (h 4), argField_withArg 4 (h 5), argField_withArg 8 (h 6)]
    rfl
  | parse | setPayload | serialize | hdrDecode | driveDecode | telemDecode =>
    simp only [exec, execParse, execSetPayload, execSerialize, execHdrDecode, execDriveDecode, execTelemDecode,
      apply_ite (withArg a)]
    rfl
  | getTelemetry =>
    simp only [exec, execGetTelemetry]
    cases s.pkt.telemetry? <;> rfl
  | new | getCommand | getAck | getLength | getPayload | getPacketCount | hasTelemetry | getChecksum | ckCompute => rfl

end

/-- Settles O18: with the other operand file the command answers the same, but for that file. -/
theorem operandsCountOnlyInTheirWidth : Obligations.OperandsCountOnlyInTheirWidth := by
  intro i s t a ha h
  rw [exec_withArg i ha, h]
  rfl

end Sys2Proof.Machine
end

section
/-! PROOF. The loopback (30_encoding.md R100): the reads of the output bytes, then the writes of the input bytes, each by
induction over the bytes. -/

namespace Sys2Proof.Machine

/-- A run goes through its first step. -/
theorem run_succ {n : Nat} {s t : State} (h : step s = .next t) :
    Host.Core.run Sys2Proof.core (n + 1) s = Host.Core.run Sys2Proof.core n t := by
  have hc : Sys2Proof.core.step s = .next t := h
  simp only [Host.Core.run, hc]

/-! ### Bytes written in a row -/

/-- The bytes of a list are written at `k`, `k + 1`, ... -/
def Memory.writeFrom (m : Memory) (k : Nat) (bytes : List Byte) : Memory :=
  match bytes with
  | [] => m
  | b :: rest => Memory.writeFrom (m.write k b) (k + 1) rest

theorem Memory.read?_writeFrom_of_lt {j k : Nat} (h : j < k) (m : Memory) (bytes : List Byte) :
    (m.writeFrom k bytes).read? j = m.read? j := by
  induction bytes generalizing m k with
  | nil => rfl
  | cons b rest ih => rw [writeFrom, ih (by omega), read?_write_ne _ _ h.ne]

/-- A byte of the row reads as written. -/
theorem Memory.read?_writeFrom {j : Nat} {bytes : List Byte} (hj : j < bytes.length) (m : Memory) (k : Nat) :
    (m.writeFrom k bytes).read? (k + j) = bytes[j]? := by
  induction bytes generalizing m k j with
  | nil => simp at hj
  | cons b rest ih =>
    cases j with
    | zero => simp [writeFrom, read?_writeFrom_of_lt]
    | succ j =>
      rw [List.getElem?_cons_succ, writeFrom, Nat.add_comm j, ← Nat.add_assoc]
      exact ih (Nat.lt_of_succ_lt_succ hj) _ _

/-- Bytes beyond the row are left alone. -/
theorem Memory.read?_writeFrom_of_le {j k : Nat} {bytes : List Byte} (h : k + bytes.length ≤ j) (m : Memory) :
    (m.writeFrom k bytes).read? j = m.read? j := by
  induction bytes generalizing m k with
  | nil => rfl
  | cons b rest ih =>
    rw [List.length_cons] at h
    rw [writeFrom, ih (by omega), read?_write_ne _ _ (by omega)]

/-! ### The accesses of the loopback, in order -/

/-- The host receives the words of `bytes`, one after the other. -/
def State.receiveBytes (s : State) (bytes : List Byte) : State :=
  { s with received := s.received ++ bytes.map (fun b => b.setWidth 32) }

/-- The host's writes of `bytes` to IN_BUF, from index `k` on. -/
def State.setInBytes (s : State) (k : Nat) (bytes : List Byte) : State := { s with inBuf := s.inBuf.writeFrom k bytes }

theorem State.receiveBytes_cons (s : State) (b : Byte) (bytes : List Byte) :
    s.receiveBytes (b :: bytes) = (s.receive (zext32 b)).receiveBytes bytes := by
  simp [receiveBytes, receive, zext32]

section
variable {bytes : List Byte} {k n : Nat} {s : State} {rest : List HostEvent}

theorem run_outByteReads (hk : k + bytes.length ≤ 256) (hout : ∀ j, j < bytes.length → s.outByte? (k + j) = bytes[j]?)
    (hp : s.pending = outByteReadsFrom k bytes.length ++ rest) :
    Host.Core.run Sys2Proof.core (n + bytes.length) s =
      Host.Core.run Sys2Proof.core n ((s.setPending rest).receiveBytes bytes) := by
  induction bytes generalizing k s with
  | nil => simp [← show s.pending = rest from hp, State.setPending, State.receiveBytes]
  | cons b bytes ih =>
    rw [List.length_cons] at hk
    have hb : s.outByte? k = some b := hout 0 (Nat.succ_pos _)
    have hstep : step s = .next ((s.setPending (outByteReadsFrom (k + 1) bytes.length ++ rest)).receive (zext32 b)) := by
      rw [step_read hp (locate_outBuf (by omega)), hostRead]
      exact congrArg (fun o => Host.Outcome.next (State.receiveByte _ o k)) hb
    have hrest (j : Nat) (hj : j < bytes.length) : s.outByte? (k + 1 + j) = bytes[j]? := by
      rw [Nat.add_right_comm]
      exact hout (j + 1) (Nat.succ_lt_succ hj)
    rw [State.receiveBytes_cons]
    exact (run_succ hstep).trans (ih (by omega) hrest rfl)

theorem setWidth_zext32 (b : Byte) : (zext32 b).setWidth 8 = b := by
  simp [zext32]

theorem run_inByteWrites (hk : k + bytes.length ≤ 256) (hp : s.pending = inByteWritesFrom k bytes ++ rest) :
    Host.Core.run Sys2Proof.core (n + bytes.length) s =
      Host.Core.run Sys2Proof.core n ((s.setPending rest).setInBytes k bytes) := by
  induction bytes generalizing k s with
  | nil => simp [← show s.pending = rest from hp, State.setPending, State.setInBytes, Memory.writeFrom]
  | cons b bytes ih =>
    rw [List.length_cons] at hk
    have hstep : step s = .next ((s.setPending (inByteWritesFrom (k + 1) bytes ++ rest)).setInByte k b) := by
      rw [step_write hp (locate_inBuf (by omega)), hostWrite, setWidth_zext32]
      rfl
    exact (run_succ hstep).trans (ih (by omega) rfl)

/-- The read of OUT_LEN, the reads of the output, the writes of the input and the write of IN_LEN, one after the other. -/
theorem run_loopback (hle : bytes.length ≤ 255) (hout : OutputIs bytes s) (hp : s.pending = asmLoopback bytes ++ rest) :
    Host.Core.run Sys2Proof.core (2 * bytes.length + 2) s =
      .next (((((s.setPending rest).receive s.outLen).receiveBytes bytes).setInBytes 0 bytes).setInLen
        (BitVec.ofNat 32 bytes.length)) := by
  have hlen : (BitVec.ofNat 32 bytes.length).toNat ≤ 256 := (BitVec.toNat_ofNat ..).trans_le (by omega)
  have hk : 0 + bytes.length ≤ 256 := by omega
  have hfetch := step_read (rest := outByteReadsFrom 0 bytes.length ++ (asmInLoad bytes ++ rest))
    (by simpa [asmLoopback, asmOutFetch] using hp) locate_outLen
  calc Host.Core.run Sys2Proof.core (2 * bytes.length + 2) s
    _ = Host.Core.run Sys2Proof.core (1 + bytes.length + bytes.length)
          ((s.setPending (outByteReadsFrom 0 bytes.length ++ (asmInLoad bytes ++ rest))).receive s.outLen) := by
      rw [show 2 * bytes.length + 2 = 1 + bytes.length + bytes.length + 1 by omega]
      exact run_succ hfetch
    _ = Host.Core.run Sys2Proof.core (1 + bytes.length)
          (((s.setPending (asmInLoad bytes ++ rest)).receive s.outLen).receiveBytes bytes) :=
      run_outByteReads hk (fun j _ => by rw [Nat.zero_add]; exact hout.2 j) rfl
    _ = Host.Core.run Sys2Proof.core 1
          ((((s.setPending (asmInLen (BitVec.ofNat 32 bytes.length) ++ rest)).receive s.outLen).receiveBytes
            bytes).setInBytes 0 bytes) :=
      run_inByteWrites hk (List.append_assoc ..)
    _ = .next (((((s.setPending rest).receive s.outLen).receiveBytes bytes).setInBytes 0 bytes).setInLen
          (BitVec.ofNat 32 bytes.length)) :=
      run_succ ((inLenWriteIsBounded _ rest _ rfl).2 hlen)

end

/-- Settles O59: the run goes through, and what it leaves of each field. -/
theorem loopbackCopiesOutputToInput : Obligations.LoopbackCopiesOutputToInput := by
  intro s bytes rest hle hout hp
  have hn : (BitVec.ofNat 32 bytes.length).toNat = bytes.length := by
    rw [BitVec.toNat_ofNat]
    omega
  refine ⟨_, run_loopback hle hout hp, ?_, ⟨hn, fun j hj => ?_⟩, fun j hj => ?_, rfl⟩
  · have hlen : s.outLen = BitVec.ofNat 32 bytes.length := BitVec.eq_of_toNat_eq (hout.1.trans hn.symm)
    simp [State.receiveBytes, State.setInBytes, hlen]
  · have h := Memory.read?_writeFrom hj s.inBuf 0
    rwa [Nat.zero_add] at h
  · exact Memory.read?_writeFrom_of_le (by omega) s.inBuf

end Sys2Proof.Machine
end

section
/-! PROOF. The header codec (41_header_codec.md) and its two commands, and the commands that do not see the packet context (R115). -/

namespace Sys2Proof.Machine

/-! ### Commands that do not see the packet context -/

theorem CommandEnds.pkt_of_packetFree {i : Instr} {s t : State} (h : CommandEnds s i t) (hi : i.packetFree = true) :
    t.pkt = s.pkt := by
  obtain hp | hp | ⟨rfl, -⟩ := h.pkt_cases
  · exact hp
  · generalize t.pkt = p at hp
    cases hp <;> cases hi
  · cases hi

/-- Each check of a packet-free command, and what it does in each branch, are the same with another packet in place. -/
theorem exec_withPacket {i : Instr} {s t : State} (p : Packet) (hi : i.packetFree = true) (h : exec i s = .next t) :
    exec i { s with pkt := p } = .next { t with pkt := p } := by
  cases i with
  | hdrDecode =>
    by_cases hl : s.inLen.toNat < 4
    · cases (execHdrDecode_malformed hl).symm.trans h
      exact execHdrDecode_malformed hl
    · cases (execHdrDecode_ok (Nat.le_of_not_lt hl)).symm.trans h
      exact execHdrDecode_ok (Nat.le_of_not_lt hl)
  | ckVerify =>
    by_cases hl : s.argFull 0 < s.inLen.toNat
    · cases (execCkVerify_ok hl).symm.trans h
      exact execCkVerify_ok hl
    · cases (execCkVerify_truncated (Nat.le_of_not_lt hl)).symm.trans h
      exact execCkVerify_truncated (Nat.le_of_not_lt hl)
  | driveDecode =>
    by_cases hl : s.inLen.toNat = 3
    · cases (execDriveDecode_ok hl).symm.trans h
      exact execDriveDecode_ok hl
    · cases (execDriveDecode_size hl).symm.trans h
      exact execDriveDecode_size hl
  | telemDecode =>
    by_cases hl : s.inLen.toNat = 9
    · cases (execTelemDecode_ok hl).symm.trans h
      exact execTelemDecode_ok hl
    · cases (execTelemDecode_size hl).symm.trans h
      exact execTelemDecode_size hl
  | hdrEncode | ckCompute | driveEncode | telemEncode =>
    cases h
    rfl
  | _ => cases hi

/-- Settles O17: how such a command ends keeps the packet, and no check or result of it looks at the packet. -/
theorem statelessCommandsIgnorePacket : Obligations.StatelessCommandsIgnorePacket := fun _ _ _ p hi h =>
  ⟨(CommandEnds.of_exec h).pkt_of_packetFree hi, exec_withPacket p hi h⟩

/-! ### The fields as numbers -/

theorem toNat_append {m n : Nat} (x : BitVec m) (y : BitVec n) : (x ++ y).toNat = x.toNat * 2 ^ n + y.toNat := by
  rw [BitVec.toNat_append, ← Nat.shiftLeft_add_eq_or_of_lt y.isLt, Nat.shiftLeft_eq]

/-- The flags byte from its fields (30_encoding.md R88). -/
theorem toNat_flagsByte (h : Header) : (flagsByte h).toNat =
    h.drive.toNat * 128 + h.status.toNat * 64 + h.sleep.toNat * 32 + h.ack.toNat * 16 + h.pad.toNat := by
  simp only [flagsByte, toNat_append, BitVec.toNat_ofBool]
  omega

/-- A bit as a digit of the number. -/
theorem toNat_getLsbD {w : Nat} (x : BitVec w) (k : Nat) : (x.getLsbD k).toNat = x.toNat / 2 ^ k % 2 :=
  Nat.toNat_testBit x.toNat k

theorem toNat_bool_inj {a b : Bool} : a.toNat = b.toNat ↔ a = b :=
  (Function.LeftInverse.injective Bool.ofNat_toNat).eq_iff

/-! ### The round trips (41_header_codec.md R112) -/

theorem split16_be16 (hi lo : Byte) : split16 (be16 hi lo) = [hi, lo] := by
  have hhi : (be16 hi lo).extractLsb' 8 8 = hi := BitVec.extractLsb'_append_eq_left
  have hlo : (be16 hi lo).extractLsb' 0 8 = lo := BitVec.extractLsb'_append_eq_right
  rw [split16, hhi, hlo]

theorem be16_split16 (v : Half) : be16 (v.extractLsb' 8 8) (v.extractLsb' 0 8) = v :=
  (BitVec.extractLsb'_append_extractLsb'_eq_extractLsb' (by decide)).trans BitVec.extractLsb'_eq_self

theorem flagsByte_decodeHeader (b0 b1 b2 b3 : Byte) : flagsByte (decodeHeader b0 b1 b2 b3) = b2 := by
  apply BitVec.eq_of_toNat_eq
  have hlt := b2.isLt
  simp only [toNat_flagsByte, decodeHeader, toNat_getLsbD, BitVec.extractLsb'_toNat]
  omega

theorem encodeHeader_decodeHeader (b0 b1 b2 b3 : Byte) : encodeHeader (decodeHeader b0 b1 b2 b3) = [b0, b1, b2, b3] := by
  rw [encodeHeader, flagsByte_decodeHeader]
  simp [decodeHeader, split16_be16]

/-- A field of the flags byte, read back, is the field as a number of the byte. -/
theorem decodeHeader_encodeHeader (h : Header) :
    decodeHeader (h.count.extractLsb' 8 8) (h.count.extractLsb' 0 8) (flagsByte h) h.length = h := by
  obtain ⟨count, drive, status, sleep, ack, pad, length⟩ := h
  have hsum := toNat_flagsByte ⟨count, drive, status, sleep, ack, pad, length⟩
  dsimp only at hsum
  have hd := drive.toNat_lt
  have hst := status.toNat_lt
  have hsl := sleep.toNat_lt
  have ha := ack.toNat_lt
  have hp := pad.isLt
  simp only [decodeHeader, be16_split16, Header.mk.injEq, ← toNat_bool_inj, ← BitVec.toNat_inj, toNat_getLsbD,
    BitVec.extractLsb'_toNat, Nat.shiftRight_zero, true_and, and_true]
  omega

/-- Settles O22: the two directions, byte by byte and field by field. -/
theorem headerCodecRoundTrips : Obligations.HeaderCodecRoundTrips :=
  ⟨encodeHeader_decodeHeader, fun h => ⟨_, _, _, _, rfl, decodeHeader_encodeHeader h⟩⟩

/-! ### What a report and an output leave -/

theorem reportsOnly_setResults (s : State) (d : Nat) {k : Nat} {vs : List Word} (hvs : vs.length = k) :
    ReportsOnly k s ((State.setResults { s with draws := d } vs).setStatus .ok) where
  ok := rfl
  inputs := ⟨rfl, rfl, rfl, fun _ => rfl, rfl, rfl⟩
  output := ⟨rfl, fun _ => rfl⟩
  pkt := rfl
  res := fun i hi => by simp [List.getElem?_eq_none (hvs.trans_le hi)]

theorem emitsOnly_emitOut (s : State) {bytes : List Byte} (h : bytes.length ≤ 255) :
    EmitsOnly bytes s ((s.emitOut bytes).setStatus .ok) where
  ok := rfl
  inputs := ⟨rfl, rfl, rfl, fun _ => rfl, rfl, rfl⟩
  out := outputIs_emitOut s bytes h
  pkt := rfl
  res := rfl

/-! ### The two commands (41_header_codec.md R114, R116) -/

/-- Settles O23, by the cases of `execHdrDecode`: each result word is a field of the header as a number. -/
theorem hdrDecodeReportsFields : Obligations.HdrDecodeReportsFields := by
  refine fun s => ⟨fun h => ⟨_, execHdrDecode_ok h, reportsOnly_setResults s (s.draws + 1) rfl, ?_⟩,
    fun h => ⟨_, execHdrDecode_malformed h, onlyStatus_raise _ _⟩⟩
  have hlt := (s.inByte 2).isLt
  simp [toNat_zext32, toNat_be16, toNat_getLsbD, BitVec.extractLsb'_toNat, -BitVec.getLsbD_eq_getElem]
  omega

/-- The header record in ARG0 to ARG6 (41_header_codec.md R116). -/
def State.headerArgs (s : State) : Header where
  count := s.argField 0 16
  drive := s.argFlag 1
  status := s.argFlag 2
  sleep := s.argFlag 3
  ack := s.argFlag 4
  pad := s.argField 5 4
  length := s.argField 6 8

theorem exec_hdrEncode (s : State) :
    exec .hdrEncode s = .next ((s.emitOut (encodeHeader s.headerArgs)).setStatus .ok) := rfl

/-- The four bytes of the truncated operands, from the registers as numbers. -/
theorem encodeHeader_headerArgs (s : State) : encodeHeader s.headerArgs =
    [BitVec.ofNat 8 (s.arg[0].toNat / 256), BitVec.ofNat 8 s.arg[0].toNat,
      BitVec.ofNat 8 (s.arg[1].toNat % 2 * 128 + s.arg[2].toNat % 2 * 64 + s.arg[3].toNat % 2 * 32 +
        s.arg[4].toNat % 2 * 16 + s.arg[5].toNat % 16),
      BitVec.ofNat 8 s.arg[6].toNat] := by
  rw [encodeHeader, split16_eq]
  simp [← BitVec.toNat_inj, toNat_flagsByte, State.headerArgs, State.toNat_argField, State.toNat_argFlag]
  omega

/-- Settles O24: the output is the header of the truncated operands. -/
theorem hdrEncodePacksOperands : Obligations.HdrEncodePacksOperands := fun s =>
  ⟨_, exec_hdrEncode s, encodeHeader_headerArgs s ▸ emitsOnly_emitOut s (by simp)⟩

end Sys2Proof.Machine
end

section
/-! PROOF. The packet codec (42_packet_codec.md): NEW and the mutators of the packet. -/

namespace Sys2Proof.Machine

/-! ### What a command that writes the packet leaves -/

theorem updatesPacketOnly_setPacket (s : State) (d : Nat) (p : Packet) :
    UpdatesPacketOnly p s ((State.setPacket { s with draws := d } p).setStatus .ok) where
  ok := rfl
  inputs := ⟨rfl, rfl, rfl, fun _ => rfl, rfl, rfl⟩
  output := ⟨rfl, fun _ => rfl⟩
  pkt := rfl
  res := rfl

/-- A command that reports one word. -/
theorem exists_reportsOnly_one {i : Instr} {s : State} {v : Word} (h : exec i s = finish (s.setResults [v])) :
    ∃ t, exec i s = .next t ∧ ReportsOnly 1 s t ∧ t.res[0] = v :=
  ⟨_, h, reportsOnly_setResults s s.draws rfl, by simp⟩

/-- GET_COMMAND reports the tag code of the header (42_packet_codec.md R146). -/
theorem exec_getCommand (s : State) :
    ∃ t, exec .getCommand s = .next t ∧ ReportsOnly 1 s t ∧ t.res[0] = s.pkt.header.tagCode :=
  exists_reportsOnly_one rfl

/-- HAS_TELEMETRY reports the telemetry condition of the packet (42_packet_codec.md R154). -/
theorem exec_hasTelemetry (s : State) :
    ∃ t, exec .hasTelemetry s = .next t ∧ ReportsOnly 1 s t ∧ t.res[0] = boolWord s.pkt.hasTelemetry :=
  exists_reportsOnly_one rfl

theorem boolWord_hasTelemetry (p : Packet) :
    boolWord p.hasTelemetry = if p.header.status = true ∧ p.payload.length = 9 then 1#32 else 0#32 := by
  simp [boolWord, Packet.hasTelemetry]

/-! ### NEW (42_packet_codec.md R130) -/

/-- Settles O25: the packet is the empty one, whose Length SERIALIZE rejects and which has no tag bit. -/
theorem newEmptiesPacket : Obligations.NewEmptiesPacket := by
  intro s
  refine ⟨_, rfl, updatesPacketOnly_setPacket s s.draws Packet.empty,
    ⟨_, execSerialize_invalid (show (0#8 : Byte).toNat < 5 by decide), onlyStatus_raise _ _⟩, ?_⟩
  obtain ⟨u, hu, -, hres⟩ := exec_getCommand ((s.setPacket Packet.empty).setStatus .ok)
  exact ⟨u, hu, hres⟩

/-! ### SET_COMMAND (42_packet_codec.md R136, R137) -/

/-- A comparison of an operand with a tag code, as numbers and as words. -/
theorem State.argFull_beq (s : State) (i : Fin 8) {n : Nat} (hn : n < 2 ^ 32) :
    (s.argFull i == n) = (s.arg[i] == BitVec.ofNat 32 n) := by
  rw [Bool.eq_iff_iff, beq_iff_eq, beq_iff_eq, ← BitVec.toNat_inj, BitVec.toNat_ofNat, Nat.mod_eq_of_lt hn]
  rfl

/-- Settles O29, by the two cases of `execSetCommand`. -/
theorem setCommandSetsOneTag : Obligations.SetCommandSetsOneTag := by
  refine fun s => ⟨fun h => ⟨_, execSetCommand_ok h, ?_⟩, fun h => ⟨_, execSetCommand_invalid h, onlyStatus_raise _ _⟩⟩
  rw [Header.withTag, s.argFull_beq 0 (by decide), s.argFull_beq 0 (by decide), s.argFull_beq 0 (by decide)]
  exact updatesPacketOnly_setPacket s s.draws _

theorem Header.tagCode_withTag (h : Header) {n : Nat} (hn : n ≤ 2) : (h.withTag n).tagCode = BitVec.ofNat 32 n := by
  obtain rfl | rfl | rfl : n = 0 ∨ n = 1 ∨ n = 2 := by omega
  all_goals rfl

/-- Settles O30: a second SET_COMMAND finds the same operand, and `withTag` overwrites its own tag bits. -/
theorem setCommandIsIdempotentAndExclusive : Obligations.SetCommandIsIdempotentAndExclusive := by
  intro s t h
  by_cases hn : s.argFull 0 ≤ 2
  · cases (execSetCommand_ok hn).symm.trans h
    refine ⟨execSetCommand_ok hn, fun _ => ⟨fun u hu => ?_, Header.withTag_exclusive _ hn⟩⟩
    obtain ⟨v, hv, -, hres⟩ := exec_getCommand u
    refine ⟨v, hv, hres.trans ?_⟩
    rw [hu]
    exact (Header.tagCode_withTag _ hn).trans (by simp [State.argFull])
  · cases (execSetCommand_invalid (Nat.lt_of_not_le hn)).symm.trans h
    exact ⟨execSetCommand_invalid (Nat.lt_of_not_le hn), fun hle => absurd hle hn⟩

/-! ### SET_PAYLOAD, SET_PACKET_COUNT and SET_TELEMETRY (42_packet_codec.md R140, R144, R152) -/

theorem Packet.toNat_length_withPayload (p : Packet) {bytes : List Byte} (h : bytes.length ≤ 250) :
    (p.withPayload bytes).header.length.toNat = bytes.length + 5 := by
  simp only [Packet.withPayload, BitVec.toNat_ofNat]
  omega

/-- Settles O31, by the two cases of `execSetPayload`. -/
theorem setPayloadStoresInput : Obligations.SetPayloadStoresInput := by
  refine fun s => ⟨fun h => ?_, fun h => ⟨_, execSetPayload_tooLarge h, onlyStatus_raise _ _⟩⟩
  refine ⟨_, execSetPayload_ok h, updatesPacketOnly_setPacket s (s.draws + 1) _, s.length_input, fun j hj => ?_, ?_,
    rfl, rfl⟩
  · exact (s.getElem?_inSlice 0 s.inLen.toNat j hj).trans (by rw [Nat.zero_add])
  · simpa using s.pkt.toNat_length_withPayload (bytes := s.input) (by simpa using h)

/-- Settles O33: the operand's low 16 bits are the register modulo 2^16. -/
theorem setPacketCountWraps : Obligations.SetPacketCountWraps := by
  intro s
  have hcount : s.argField 0 16 = BitVec.ofNat 16 (s.arg[0].toNat % 65536) :=
    BitVec.eq_of_toNat_eq (by simp [State.argField])
  exact ⟨_, rfl, hcount ▸ updatesPacketOnly_setPacket s s.draws _⟩

/-- The nine bytes of the truncated operands, from the registers as numbers. -/
theorem telemetryBytes_telemetryArgs (s : State) : telemetryBytes s.telemetryArgs =
    [BitVec.ofNat 8 (s.arg[0].toNat / 256), BitVec.ofNat 8 s.arg[0].toNat,
      BitVec.ofNat 8 (s.arg[1].toNat / 256), BitVec.ofNat 8 s.arg[1].toNat,
      BitVec.ofNat 8 (s.arg[2].toNat / 256), BitVec.ofNat 8 s.arg[2].toNat,
      BitVec.ofNat 8 s.arg[3].toNat, BitVec.ofNat 8 s.arg[4].toNat, BitVec.ofNat 8 s.arg[5].toNat] := by
  simp [telemetryBytes, split16_eq, ← BitVec.toNat_inj, State.telemetryArgs, State.toNat_argField]
  omega

/-- Settles O34: the record of nine bytes gives Length 14, and with the Status tag the telemetry condition. -/
theorem setTelemetryBuildsResponse : Obligations.SetTelemetryBuildsResponse := by
  intro s
  refine ⟨_, rfl, ?_, ?_⟩
  · rw [← telemetryBytes_telemetryArgs]
    exact updatesPacketOnly_setPacket s s.draws _
  · obtain ⟨u, hu, -, hres⟩ := exec_hasTelemetry ((s.setPacket
      (Packet.withPayload { s.pkt with header := s.pkt.header.withTag 1 } (telemetryBytes s.telemetryArgs))).setStatus .ok)
    exact ⟨u, hu, hres⟩

end Sys2Proof.Machine
end

section
/-! PROOF. The packet codec (42_packet_codec.md): PARSE. -/

namespace Sys2Proof.Machine

/-- The packet that a successful PARSE stores (42_packet_codec.md R132). -/
def State.parsedPacket (s : State) : Packet where
  header := decodeHeader (s.inByte 0) (s.inByte 1) (s.inByte 2) (s.inByte 3)
  payload := s.inSlice 4 ((s.inByte 3).toNat - 1)
  checksum := s.inByte ((s.inByte 3).toNat - 1)

theorem exec_parse_ok {s : State} (h5 : 5 ≤ (s.inByte 3).toNat) (hl : (s.inByte 3).toNat ≤ s.inLen.toNat) :
    exec .parse s = .next ((s.nextDraw.setPacket s.parsedPacket).setStatus .ok) :=
  execParse_ok h5 hl

/-- The flags and the padding of a decoded header as digits of its third byte (30_encoding.md R88). -/
theorem toNat_decodeHeader_flags (b0 b1 b2 b3 : Byte) :
    (decodeHeader b0 b1 b2 b3).drive.toNat = b2.toNat / 128 ∧ (decodeHeader b0 b1 b2 b3).status.toNat = b2.toNat / 64 % 2 ∧
      (decodeHeader b0 b1 b2 b3).sleep.toNat = b2.toNat / 32 % 2 ∧
      (decodeHeader b0 b1 b2 b3).ack.toNat = b2.toNat / 16 % 2 ∧ (decodeHeader b0 b1 b2 b3).pad.toNat = b2.toNat % 16 := by
  have hlt := b2.isLt
  simp only [decodeHeader, toNat_getLsbD, BitVec.extractLsb'_toNat]
  omega

/-- Settles O26, by the cases of `execParse`: a success stores `State.parsedPacket`, whose fields are read off the input. -/
theorem parseStoresWirePacket : Obligations.ParseStoresWirePacket := by
  refine fun s => ⟨fun h => ⟨_, execParse_malformed h, onlyStatus_raise _ _⟩,
    fun h4 h5 => ⟨_, execParse_invalid h4 h5, onlyStatus_raise_nextDraw _ _⟩,
    fun h4 h5 hl => ⟨_, execParse_truncated h4 h5 hl, onlyStatus_raise_nextDraw _ _⟩, fun h5 hl => ?_⟩
  obtain ⟨hdrive, hstatus, hsleep, hack, hpad⟩ := toNat_decodeHeader_flags (s.inByte 0) (s.inByte 1) (s.inByte 2) (s.inByte 3)
  refine ⟨_, exec_parse_ok h5 hl, updatesPacketOnly_setPacket s (s.draws + 1) _, toNat_be16 _ _, hdrive, hstatus, hsleep,
    hack, hpad, rfl, ?_, fun j hj => ?_, rfl⟩
  · simp [State.parsedPacket]
    omega
  · exact s.getElem?_inSlice 4 _ j (by omega)

/-- Inputs that agree below the Length byte parse to the same packet. -/
theorem State.parsedPacket_congr {s s' : State} (h5 : 5 ≤ (s.inByte 3).toNat)
    (h : ∀ j, j < (s.inByte 3).toNat → s'.inByte j = s.inByte j) : s'.parsedPacket = s.parsedPacket := by
  have hslice : s'.inSlice 4 ((s.inByte 3).toNat - 1) = s.inSlice 4 ((s.inByte 3).toNat - 1) :=
    State.inSlice_congr fun j _ hj => h j (by omega)
  rw [State.parsedPacket, h 0 (by omega), h 1 (by omega), h 2 (by omega), h 3 (by omega), hslice, h _ (by omega)]
  rfl

/-- Settles O27: both parses pass their checks, and the packets they store are the same. -/
theorem parseIgnoresTrailingBytes : Obligations.ParseIgnoresTrailingBytes := by
  intro s s' h5 hl hl' h
  have hpkt := State.parsedPacket_congr h5 h
  have h3 : s'.inByte 3 = s.inByte 3 := h 3 (by omega)
  exact ⟨_, _, exec_parse_ok h5 hl, exec_parse_ok (by rwa [h3]) (by rwa [h3]), rfl, rfl, hpkt,
    congrArg Packet.checksum hpkt⟩

/-- Where a PARSE has succeeded, the packet has a payload of 9 bytes exactly when the Length byte is 14. -/
theorem WritesPacket.hasTelemetry_of_parse {s : State} {p : Packet} (h : WritesPacket s .parse p) :
    boolWord p.hasTelemetry = if (s.inByte 2).getLsbD 6 = true ∧ (s.inByte 3).toNat = 14 then 1#32 else 0#32 := by
  cases h with
  | parse h5 =>
    have hlen : (s.inByte 3).toNat - 1 - 4 = 9 ↔ (s.inByte 3).toNat = 14 := by omega
    simp only [boolWord_hasTelemetry, decodeHeader, State.length_inSlice, hlen]

/-- Settles O28: HAS_TELEMETRY reports the telemetry condition of the packet PARSE has written. -/
theorem telemetryAfterParse : Obligations.TelemetryAfterParse := by
  intro s t h hok
  obtain ⟨u, hu, -, hres⟩ := exec_hasTelemetry t
  exact ⟨u, hu, hres.trans (writesPacket_of_exec_ok rfl h hok).hasTelemetry_of_parse⟩

end Sys2Proof.Machine
end

section
/-! PROOF. The packet codec (42_packet_codec.md): the accessors. -/

namespace Sys2Proof.Machine

/-- Settles O35: the tag code in each row of the table. -/
theorem getCommandReportsTag : Obligations.GetCommandReportsTag := by
  intro s
  obtain ⟨t, ht, hrep, hres⟩ := exec_getCommand s
  refine ⟨t, ht, hrep, hres.trans ?_⟩
  split <;> simp [Header.tagCode, *]

/-- A command that reports one word, with the number the word stands for. -/
theorem exists_reportsOnly_toNat {i : Instr} {s : State} {v : Word} {n : Nat}
    (h : exec i s = finish (s.setResults [v])) (hv : v.toNat = n) :
    ∃ t, exec i s = .next t ∧ ReportsOnly 1 s t ∧ t.res[0].toNat = n := by
  obtain ⟨t, ht, hrep, hres⟩ := exists_reportsOnly_one h
  exact ⟨t, ht, hrep, hres ▸ hv⟩

theorem exec_getLength (s : State) :
    ∃ t, exec .getLength s = .next t ∧ ReportsOnly 1 s t ∧ t.res[0].toNat = s.pkt.header.length.toNat :=
  exists_reportsOnly_toNat rfl (toNat_zext32 _ (by decide))

/-- Settles O36: each accessor reports one word, its field as a number or the telemetry condition. -/
theorem fieldAccessorsReport : Obligations.FieldAccessorsReport := by
  refine fun s => ⟨exists_reportsOnly_toNat rfl (toNat_boolWord _), exec_getLength s,
    exists_reportsOnly_toNat rfl (toNat_zext32 _ (by decide)), exists_reportsOnly_toNat rfl (toNat_zext32 _ (by decide)), ?_⟩
  rw [← boolWord_hasTelemetry]
  exact exec_hasTelemetry s

/-- Settles O37: the Length invariant bounds the payload, so OUT_LEN counts it. -/
theorem getPayloadCopiesOut : Obligations.GetPayloadCopiesOut := fun s h =>
  ⟨_, rfl, emitsOnly_emitOut s (h.payload_le.trans (by decide))⟩

theorem InputIs.input_eq {bytes : List Byte} {s : State} (h : InputIs bytes s) : s.input = bytes := by
  rw [State.input, h.startsWith.inSlice h.1.le, h.1, List.take_length, List.drop_zero]

/-- Settles O32: SET_PAYLOAD stores the bytes and their number plus 5, and the accessors report what they find. -/
theorem payloadReadsBack : Obligations.PayloadReadsBack := by
  intro s t u bytes hle hin h hpay hlen
  have hset := execSetPayload_ok (s := s) (hin.1.trans_le hle)
  rw [hin.input_eq] at hset
  cases hset.symm.trans h
  obtain ⟨v, hv, -, hres⟩ := exec_getLength u
  refine ⟨⟨_, rfl, ?_⟩, v, hv, ?_⟩
  · rw [hpay]
    exact outputIs_emitOut u bytes (by omega)
  · rw [hres, hlen]
    exact s.pkt.toNat_length_withPayload hle

theorem Packet.telemetry?_of_record {p : Packet} {s0 s1 s2 s3 s4 s5 s6 s7 s8 : Byte} (hs : p.header.status = true)
    (hp : p.payload = [s0, s1, s2, s3, s4, s5, s6, s7, s8]) :
    p.telemetry? = some (telemetryFields s0 s1 s2 s3 s4 s5 s6 s7 s8) := by
  simp [Packet.telemetry?, Packet.hasTelemetry, hs, hp]

theorem Packet.telemetry?_eq_none {p : Packet} (h : ¬(p.header.status = true ∧ p.payload.length = 9)) :
    p.telemetry? = none := by
  rw [← Option.not_isSome_iff_eq_none, Packet.isSome_telemetry?]
  simpa [Packet.hasTelemetry] using h

/-- Settles O38, by the two cases of `execGetTelemetry`. -/
theorem getTelemetryReportsRecord : Obligations.GetTelemetryReportsRecord := by
  refine fun s => ⟨fun s0 s1 s2 s3 s4 s5 s6 s7 s8 hs hp => ?_,
    fun h => ⟨_, execGetTelemetry_none (Packet.telemetry?_eq_none h), onlyStatus_raise _ _⟩⟩
  refine ⟨_, execGetTelemetry_some (Packet.telemetry?_of_record hs hp), reportsOnly_setResults s s.draws rfl, ?_⟩
  simp [telemetryResults, telemetryFields, toNat_zext32, toNat_be16]

end Sys2Proof.Machine
end

section
/-! PROOF. The packet codec (42_packet_codec.md): SERIALIZE, and the two laws about its output (R162, R163). -/

namespace Sys2Proof.Machine

/-! ### The wire packet (30_encoding.md R85) -/

/-- The set bits of a byte, counted over its indices. -/
theorem popcount8_eq_countP (b : Byte) : popcount8 b = (List.range 8).countP b.getLsbD := by
  simp [popcount8, List.range_succ, Bool.toNat, Bool.cond_eq_ite, List.countP_cons]

theorem toNat_checksum8_eq_countP (s : List Byte) :
    (checksum8 s).toNat = (s.map fun b => (List.range 8).countP b.getLsbD).sum % 256 := by
  rw [toNat_checksum8, funext popcount8_eq_countP]

/-- The four header bytes, from the fields as numbers. -/
theorem encodeHeader_eq (h : Header) : encodeHeader h =
    [BitVec.ofNat 8 (h.count.toNat / 256), BitVec.ofNat 8 h.count.toNat,
      BitVec.ofNat 8 (h.drive.toNat * 128 + h.status.toNat * 64 + h.sleep.toNat * 32 + h.ack.toNat * 16 + h.pad.toNat),
      h.length] := by
  simp [encodeHeader, split16_eq, ← toNat_flagsByte]

/-- The Length invariant where Length is not that of the empty packet. -/
theorem Packet.lengthOk.length_eq {p : Packet} (h : p.lengthOk) (h5 : 5 ≤ p.header.length.toNat) :
    p.header.length.toNat = p.payload.length + 5 := by
  rcases h with ⟨h0, -⟩ | ⟨hl, -⟩
  · simp [h0] at h5
  · exact hl

/-- A SERIALIZE that completes with OK has passed its check. -/
theorem length_ge_of_serialize_ok {s t : State} (h : exec .serialize s = .next t) (hok : t.status = .ok) :
    5 ≤ s.pkt.header.length.toNat := by
  by_contra hlt
  cases (execSerialize_invalid (Nat.lt_of_not_le hlt)).symm.trans h
  cases hok

/-- The output of a successful SERIALIZE is the wire packet. -/
theorem outputIs_wire_of_serialize {s t : State} (hlen : s.pkt.lengthOk) (h : exec .serialize s = .next t)
    (hok : t.status = .ok) : OutputIs s.pkt.wire t := by
  cases (execSerialize_ok (length_ge_of_serialize_ok h hok)).symm.trans h
  exact (emitsOnly_emitOut _ hlen.wire_le).out

/-- Settles O39, by the two cases of `execSerialize`: the output is the wire packet, as long as Length says. -/
theorem serializeEmitsWirePacket : Obligations.SerializeEmitsWirePacket := by
  refine fun s => ⟨fun h => ⟨_, execSerialize_invalid h, onlyStatus_raise _ _⟩, fun h5 hok => ?_⟩
  have hout := outputIs_wire_of_serialize hok (execSerialize_ok h5) rfl
  refine ⟨_, s.pkt.body, execSerialize_ok h5, ?_, rfl, ⟨rfl, rfl, rfl, fun _ => rfl, rfl, rfl⟩, rfl, rfl,
    toNat_checksum8_eq_countP _, hout, ?_⟩
  · rw [Packet.body, encodeHeader_eq]
  · rw [hok.length_eq h5, ← Packet.length_wire]
    exact hout.1

/-! ### SERIALIZE is repeatable (42_packet_codec.md R162) -/

theorem SamePacketFields.refl (p : Packet) : SamePacketFields p p := ⟨rfl, rfl⟩

theorem SamePacketFields.trans {p q r : Packet} (h : SamePacketFields p q) (h' : SamePacketFields q r) :
    SamePacketFields p r :=
  ⟨h'.1.trans h.1, h'.2.trans h.2⟩

/-- The wire packet does not depend on P.checksum. -/
theorem SamePacketFields.wire_eq {p q : Packet} (h : SamePacketFields p q) : q.wire = p.wire := by
  obtain ⟨hheader, hpayload⟩ := h
  simp only [Packet.wire, Packet.body, hheader, hpayload]

theorem WritesPacket.mutatesPacket {s : State} {i : Instr} {p : Packet} (h : WritesPacket s i p) :
    i.mutatesPacket = true := by
  cases h <;> rfl

theorem samePacketFields_of_exec {i : Instr} {s t : State} (hi : i.mutatesPacket = false) (h : exec i s = .next t) :
    SamePacketFields s.pkt t.pkt := by
  obtain hp | hp | ⟨-, hp⟩ := (CommandEnds.of_exec h).pkt_cases
  · rw [hp]
    exact .refl _
  · cases hi.symm.trans hp.mutatesPacket
  · rw [hp]
    exact ⟨rfl, rfl⟩

/-- CMD is the register at offset 0 alone. -/
theorem offset_eq_zero_of_locate_cmd {offset width : Nat} (h : locate offset width = .ok .cmd) : offset = 0 := by
  by_contra h0
  simp only [locate, registerAt, if_neg h0] at h
  split_ifs at h <;> cases h

theorem mutatesPacket_eq_false_of_keepsPacketFields {width : Nat} {w : Word} {i : Instr}
    (h : (HostEvent.write 0 width w).keepsPacketFields = true) (hd : decode w = .ok i) : i.mutatesPacket = false := by
  simpa [HostEvent.keepsPacketFields, hd] using h

/-- What SERIALIZE reads, and the rest of the host's program, stay as they were. -/
structure KeepsSerialized (s t : State) : Prop where
  fields : SamePacketFields s.pkt t.pkt
  pending : t.pending = s.pending

theorem issueCommand_keepsSerialized {width : Nat} {w : Word} {s t : State}
    (hev : (HostEvent.write 0 width w).keepsPacketFields = true) (h : issueCommand exec w s = .next t) :
    KeepsSerialized s t := by
  obtain ⟨i, hd, hi⟩ | ⟨e, -, he⟩ := issueCommand_cases exec w s
  · have hexec := hi.symm.trans h
    exact ⟨samePacketFields_of_exec (s := s.setCmd w) (mutatesPacket_eq_false_of_keepsPacketFields hev hd) hexec,
      (CommandEnds.of_exec hexec).keepsInputs.pending⟩
  · cases he.symm.trans h
    exact ⟨.refl _, rfl⟩

theorem hostWrite_keepsSerialized {offset width : Nat} {loc : Location} {v : Word} {s t : State}
    (hloc : locate offset width = .ok loc) (hev : (HostEvent.write offset width v).keepsPacketFields = true)
    (h : hostWrite exec loc v s = .next t) : KeepsSerialized s t := by
  by_cases hc : loc = .cmd
  · subst hc
    cases offset_eq_zero_of_locate_cmd hloc
    exact issueCommand_keepsSerialized hev h
  · obtain rfl | ⟨-, -, rfl⟩ | ⟨i, rfl⟩ | ⟨j, -, rfl⟩ := hostWrite_cases hc h
    all_goals exact ⟨.refl _, rfl⟩

theorem perform_keepsSerialized {ev : HostEvent} {s t : State} (hev : ev.keepsPacketFields = true)
    (h : perform exec ev s = .next t) : KeepsSerialized s t := by
  cases ev with
  | reset => cases hev
  | read offset width =>
    cases hloc : locate offset width with
    | error f => cases (perform_read_refused exec s hloc).symm.trans h
    | ok loc =>
      obtain ⟨v, d, hread⟩ := hostRead_cases loc s
      cases (perform_read exec s hloc).symm.trans h
      rw [hread]
      exact ⟨.refl _, rfl⟩
  | write offset width v =>
    cases hloc : locate offset width with
    | error f => cases (perform_write_refused exec v s hloc).symm.trans h
    | ok loc => exact hostWrite_keepsSerialized hloc hev ((perform_write exec v s hloc).symm.trans h)

/-- A run of at least one step has a first step. -/
theorem exists_step_of_run {n : Nat} {s t : State} (h : Host.Core.run Sys2Proof.core (n + 1) s = .next t) :
    ∃ u, step s = .next u ∧ Host.Core.run Sys2Proof.core n u = .next t := by
  simp only [Host.Core.run] at h
  split at h
  · next u hu => exact ⟨u, hu, h⟩
  · cases h
  · cases h

/-- Events that mutate no packet, one after the other. -/
theorem run_samePacketFields {events rest : List HostEvent} {s t : State}
    (hev : ∀ ev ∈ events, ev.keepsPacketFields = true) (hp : s.pending = events ++ rest)
    (h : Host.Core.run Sys2Proof.core events.length s = .next t) : SamePacketFields s.pkt t.pkt := by
  induction events generalizing s with
  | nil =>
    cases h
    exact .refl _
  | cons ev events ih =>
    obtain ⟨u, hu, hrun⟩ := exists_step_of_run h
    rw [List.forall_mem_cons] at hev
    have hkeep := perform_keepsSerialized hev.1 ((step_of_pending hp).symm.trans hu)
    exact hkeep.fields.trans (ih hev.2 hkeep.pending hrun)

/-- Settles O40: the packet fields that the second SERIALIZE reads are those of the first. -/
theorem serializeIsRepeatable : Obligations.SerializeIsRepeatable := by
  intro s t u v between rest hst hev hp hrun huv hok
  have h5 := length_ge_of_serialize_ok hst hok
  have hfields : SamePacketFields s.pkt u.pkt :=
    (samePacketFields_of_exec rfl hst).trans (run_samePacketFields hev hp hrun)
  have hser := execSerialize_ok (s := u) (by rwa [hfields.1])
  rw [hfields.wire_eq] at hser
  cases (execSerialize_ok h5).symm.trans hst
  cases hser.symm.trans huv
  exact ⟨rfl, rfl, fun _ => rfl⟩

/-! ### The round trip (42_packet_codec.md R163) -/

theorem Packet.drop_take_wire (p : Packet) : (p.wire.take (p.payload.length + 4)).drop 4 = p.payload := by
  rw [Packet.wire, List.take_left' p.length_body, Packet.body, List.drop_left' (length_encodeHeader _)]

theorem Packet.getElem?_wire_last (p : Packet) : p.wire[p.payload.length + 4]? = some (checksum8 p.body) := by
  rw [Packet.wire, ← p.length_body, List.getElem?_concat_length]

/-- A wire packet in IN_BUF parses to the packet it came from, with the checksum over its body. -/
theorem parsedPacket_of_wire {p : Packet} {u : State} (hu : InputStartsWith p.wire u)
    (hl : p.header.length.toNat = p.payload.length + 5) :
    u.parsedPacket = { p with checksum := checksum8 p.body } := by
  have hlen := p.length_wire
  have h0 : u.inByte 0 = p.header.count.extractLsb' 8 8 := hu.inByte (j := 0) (by omega)
  have h1 : u.inByte 1 = p.header.count.extractLsb' 0 8 := hu.inByte (j := 1) (by omega)
  have h2 : u.inByte 2 = flagsByte p.header := hu.inByte (j := 2) (by omega)
  have h3 : u.inByte 3 = p.header.length := hu.inByte (j := 3) (by omega)
  have hpay : u.inSlice 4 (p.payload.length + 4) = p.payload :=
    (hu.inSlice (by omega)).trans p.drop_take_wire
  have hck : u.inByte (p.payload.length + 4) = checksum8 p.body :=
    State.inByte_of_read ((hu.2 _ (by omega)).trans p.getElem?_wire_last)
  rw [State.parsedPacket, h0, h1, h2, h3, hl, show p.payload.length + 5 - 1 = p.payload.length + 4 from rfl, hpay, hck,
    decodeHeader_encodeHeader]

/-- Settles O41: the output is the wire packet, which parses to the packet serialized. -/
theorem parseOfSerializeRestoresPacket : Obligations.ParseOfSerializeRestoresPacket := by
  intro s t u wire hok hst hstatus hout hu
  have h5 := length_ge_of_serialize_ok hst hstatus
  have hl := hok.length_eq h5
  obtain rfl : wire = s.pkt.wire := hout.unique (outputIs_wire_of_serialize hok hst hstatus)
  have hpkt := parsedPacket_of_wire hu hl
  have h3 : u.inByte 3 = s.pkt.header.length := congrArg (fun p : Packet => p.header.length) hpkt
  have hle : (u.inByte 3).toNat ≤ u.inLen.toNat := by
    rw [h3, hl, ← Packet.length_wire]
    exact hu.1
  refine ⟨_, exec_parse_ok (h3 ▸ h5) hle, rfl, congrArg (·.header) hpkt, congrArg (·.payload) hpkt, ?_⟩
  rw [Packet.length_wire]
  exact s.pkt.getElem?_wire_last.trans (congrArg (fun p : Packet => some p.checksum) hpkt.symm)

end Sys2Proof.Machine
end

section
/-! PROOF. The checksum engine (43_checksum.md): the count of set bits (R190), CK_COMPUTE and CK_VERIFY (R192, R194), and the
two laws about what verifies (R196, R197). -/

namespace Sys2Proof.Machine

/-! ### The count of set bits (43_checksum.md R190) -/

/-- Settles O42: the bits of the sequence are those of its bytes, counted byte by byte. -/
theorem checksumCountsSetBits : Obligations.ChecksumCountsSetBits := by
  refine ⟨rfl, fun s => ?_⟩
  have hbits (b : Byte) : ((List.range 8).map fun k => b.getLsbD k).count true = (List.range 8).countP b.getLsbD := by
    simp [List.count_eq_countP, List.countP_map, Function.comp_def]
  rw [toNat_checksum8_eq_countP, List.count_flatMap]
  simp only [Function.comp_def, hbits]

/-! ### CK_COMPUTE and CK_VERIFY (43_checksum.md R192, R194) -/

/-- The checksum word of the first `n` input bytes, as a count of their set bits. -/
theorem State.toNat_checksum8_inSlice (s : State) (n : Nat) : (zext32 (checksum8 (s.inSlice 0 n))).toNat =
    (((List.range n).map s.inByte).map fun b => (List.range 8).countP b.getLsbD).sum % 256 := by
  rw [toNat_zext32 _ (by decide), toNat_checksum8_eq_countP, s.inSlice_zero]

/-- Settles O43: one result word, the checksum of the valid input. -/
theorem ckComputeReportsChecksum : Obligations.CkComputeReportsChecksum := fun s =>
  ⟨_, rfl, reportsOnly_setResults s (s.draws + 1) rfl, by simp [State.input, State.toNat_checksum8_inSlice]⟩

/-- Settles O44, by the two cases of `execCkVerify`. -/
theorem ckVerifyComparesChecksum : Obligations.CkVerifyComparesChecksum := by
  refine fun s => ⟨fun h => ⟨_, execCkVerify_ok h, reportsOnly_setResults s (s.draws + 1) rfl, ?_, ?_⟩,
    fun h => ⟨_, execCkVerify_truncated h, onlyStatus_raise _ _⟩⟩
  · simp [State.argFull, State.toNat_checksum8_inSlice]
  · simp [boolWord, toNat_zext32, State.argFull, BitVec.toNat_inj]

/-- CK_VERIFY of a loaded sequence compares the byte at the offset with the checksum of the bytes before it. -/
theorem exec_ckVerify_of_input {bytes : List Byte} {u : State} {n : Nat} (hin : InputIs bytes u)
    (hoff : u.arg[0].toNat = n) (hn : n < bytes.length) :
    ∃ v, exec .ckVerify u = .next v ∧ v.status = .ok ∧ v.res[0] = boolWord (checksum8 (bytes.take n) == bytes[n]) := by
  subst hoff
  refine ⟨_, execCkVerify_ok (hn.trans_eq hin.1.symm), rfl, ?_⟩
  have hslice := hin.startsWith.inSlice (lo := 0) hn.le
  have hbyte := hin.startsWith.inByte hn
  simp [State.argFull, hslice, hbyte]

/-! ### What SERIALIZE emits verifies (43_checksum.md R196) -/

/-- Settles O45: the output is the wire packet, whose last byte is the checksum of those before it. -/
theorem serializedPacketVerifies : Obligations.SerializedPacketVerifies := by
  intro s t u wire hlen hst hok hout hin hoff
  obtain rfl : wire = s.pkt.body ++ [checksum8 s.pkt.body] := hout.unique (outputIs_wire_of_serialize hlen hst hok)
  obtain ⟨v, hv, hvok, hres⟩ := exec_ckVerify_of_input (n := s.pkt.body.length) hin (by simpa using hoff) (by simp)
  exact ⟨v, hv, hvok, by simpa [boolWord] using hres⟩

/-! ### A single bit flip is detected (43_checksum.md R197) -/

theorem countP_xor_mod_two {α : Type} (p q : α → Bool) (l : List α) :
    l.countP (fun a => p a ^^ q a) % 2 = (l.countP p + l.countP q) % 2 := by
  induction l with
  | nil => rfl
  | cons a l ih =>
    simp only [List.countP_cons]
    cases p a <;> cases q a <;> simp <;> omega

/-- Flipping one bit of a byte changes the parity of its count of set bits. -/
theorem popcount8_flip_mod_two (b : Byte) {k : Nat} (hk : k < 8) :
    popcount8 (b ^^^ (1#8 <<< k)) % 2 = (popcount8 b + 1) % 2 := by
  have hone : popcount8 (1#8 <<< k) = 1 := by
    revert k
    decide
  have hxor : (b ^^^ (1#8 <<< k)).getLsbD = fun i => b.getLsbD i ^^ (1#8 <<< k).getLsbD i :=
    funext fun _ => BitVec.getLsbD_xor
  rw [popcount8_eq_countP, hxor, countP_xor_mod_two, ← popcount8_eq_countP, ← popcount8_eq_countP, hone]

theorem flip_ne_self (b : Byte) {k : Nat} (hk : k < 8) : b ^^^ (1#8 <<< k) ≠ b := by
  intro h
  have hpar := popcount8_flip_mod_two b hk
  rw [h] at hpar
  omega

/-- Flipping one bit of a sequence changes the parity of its count of set bits, so it changes the checksum. -/
theorem checksum8_flip_ne {s : List Byte} {j k : Nat} (hj : j < s.length) (hk : k < 8) :
    checksum8 (s.modify j fun b => b ^^^ (1#8 <<< k)) ≠ checksum8 s := by
  obtain ⟨before, b, after, rfl, -, hmod⟩ := List.exists_of_modify (fun b => b ^^^ (1#8 <<< k)) hj
  have hpar := popcount8_flip_mod_two b hk
  rw [hmod, ← BitVec.toNat_inj.ne, toNat_checksum8, toNat_checksum8]
  simp only [List.map_append, List.map_cons, List.sum_append, List.sum_cons]
  omega

/-- Settles O46: a flip before the offset changes the checksum computed, and a flip at the offset the byte it is compared
with. -/
theorem singleBitFlipIsDetected : Obligations.SingleBitFlipIsDetected := by
  intro u body j k hj hk _ hin hoff
  obtain ⟨v, hv, hvok, hres⟩ := exec_ckVerify_of_input hin hoff (by simp)
  rw [List.take_modify, List.take_left' rfl, List.getElem_modify, List.getElem_concat_length rfl] at hres
  refine ⟨v, hv, hvok, hres.trans ?_⟩
  obtain rfl | hlt := Nat.eq_or_lt_of_le hj
  · rw [if_pos rfl, List.modify_eq_self le_rfl, beq_false_of_ne (flip_ne_self _ hk).symm]
    rfl
  · rw [if_neg hlt.ne, beq_false_of_ne (checksum8_flip_ne hlt hk)]
    rfl

end Sys2Proof.Machine
end

section
/-! PROOF. The payload interpreters (44_payload_interpreters.md): the two record formats and their round trips (R215), the four
commands (R212, R213, R216, R217), and the round trips through the block (R218). -/

namespace Sys2Proof.Machine

/-! ### The record formats (44_payload_interpreters.md R210, R214, R215) -/

theorem telemetryFields_telemetryBytes (r : Telemetry) :
    telemetryFields (r.lastPacketCounter.extractLsb' 8 8) (r.lastPacketCounter.extractLsb' 0 8)
      (r.currentGrade.extractLsb' 8 8) (r.currentGrade.extractLsb' 0 8) (r.hitCount.extractLsb' 8 8)
      (r.hitCount.extractLsb' 0 8) r.lastCommand r.lastCommandValue r.lastCommandSpeed = r := by
  simp only [telemetryFields, be16_split16]

theorem telemetryBytes_telemetryFields (s0 s1 s2 s3 s4 s5 s6 s7 s8 : Byte) :
    telemetryBytes (telemetryFields s0 s1 s2 s3 s4 s5 s6 s7 s8) = [s0, s1, s2, s3, s4, s5, s6, s7, s8] := by
  simp only [telemetryBytes, telemetryFields, split16_be16, List.cons_append, List.nil_append]

/-- Settles O49: each direction splits or joins the three 16-bit fields. -/
theorem telemetryRecordRoundTrips : Obligations.TelemetryRecordRoundTrips :=
  ⟨fun r => ⟨_, _, _, _, _, _, _, _, _, rfl, telemetryFields_telemetryBytes r⟩, telemetryBytes_telemetryFields⟩

/-- The drive body in ARG0 to ARG2 (44_payload_interpreters.md R213). -/
def State.driveArgs (s : State) : DriveBody where
  direction := s.argField 0 8
  duration := s.argField 1 8
  speed := s.argField 2 8

/-- The three bytes of the truncated operands, from the registers as numbers. -/
theorem driveBytes_driveArgs (s : State) : driveBytes s.driveArgs =
    [BitVec.ofNat 8 s.arg[0].toNat, BitVec.ofNat 8 s.arg[1].toNat, BitVec.ofNat 8 s.arg[2].toNat] := by
  simp [driveBytes, State.driveArgs, ← BitVec.toNat_inj, State.toNat_argField]

/-! ### The result registers as numbers -/

/-- The results of the drive body in another state's operands are those operands modulo 2^8. -/
theorem toNat_res_driveArgs {u v : State} (s : State) (hv : v.res = (u.setResults
      [zext32 s.driveArgs.direction, zext32 s.driveArgs.duration, zext32 s.driveArgs.speed]).res) :
    v.res[0].toNat = s.arg[0].toNat % 256 ∧ v.res[1].toNat = s.arg[1].toNat % 256 ∧
      v.res[2].toNat = s.arg[2].toNat % 256 := by
  simp [hv, State.driveArgs, toNat_zext32, State.toNat_argField]

/-- The results of the record in another state's operands are those operands modulo their field widths. -/
theorem toNat_res_telemetryArgs {u v : State} (s : State)
    (hv : v.res = (u.setResults (telemetryResults s.telemetryArgs)).res) :
    v.res[0].toNat = s.arg[0].toNat % 65536 ∧ v.res[1].toNat = s.arg[1].toNat % 65536 ∧
      v.res[2].toNat = s.arg[2].toNat % 65536 ∧ v.res[3].toNat = s.arg[3].toNat % 256 ∧
      v.res[4].toNat = s.arg[4].toNat % 256 ∧ v.res[5].toNat = s.arg[5].toNat % 256 := by
  simp [hv, telemetryResults, State.telemetryArgs, toNat_zext32, State.toNat_argField]

/-! ### The four commands (44_payload_interpreters.md R212, R213, R216, R217) -/

theorem exec_driveEncode (s : State) :
    exec .driveEncode s = .next ((s.emitOut (driveBytes s.driveArgs)).setStatus .ok) := rfl

theorem exec_telemEncode (s : State) :
    exec .telemEncode s = .next ((s.emitOut (telemetryBytes s.telemetryArgs)).setStatus .ok) := rfl

/-- Settles O47, by the two cases of `execDriveDecode`. -/
theorem driveDecodeReportsBody : Obligations.DriveDecodeReportsBody := by
  refine fun s => ⟨fun h => ⟨_, execDriveDecode_ok h, reportsOnly_setResults s (s.draws + 1) rfl, ?_⟩,
    fun h => ⟨_, execDriveDecode_size h, onlyStatus_raise _ _⟩⟩
  simp [toNat_zext32]

/-- Settles O48: the output is the drive body of the truncated operands. -/
theorem driveEncodeEmitsBody : Obligations.DriveEncodeEmitsBody := fun s =>
  ⟨_, exec_driveEncode s, driveBytes_driveArgs s ▸ emitsOnly_emitOut s (by simp)⟩

/-- Settles O50, by the two cases of `execTelemDecode`: each 16-bit field is its two bytes, big-endian. -/
theorem telemDecodeReportsRecord : Obligations.TelemDecodeReportsRecord := by
  refine fun s => ⟨fun h => ⟨_, execTelemDecode_ok h, reportsOnly_setResults s (s.draws + 1) rfl, ?_⟩,
    fun h => ⟨_, execTelemDecode_size h, onlyStatus_raise _ _⟩⟩
  simp [telemetryResults, telemetryFields, toNat_zext32, toNat_be16]

/-- Settles O51: the output is the record of the truncated operands. -/
theorem telemEncodeEmitsRecord : Obligations.TelemEncodeEmitsRecord := fun s =>
  ⟨_, exec_telemEncode s, telemetryBytes_telemetryArgs s ▸ emitsOnly_emitOut s (by simp)⟩

/-! ### Encode, load the output as input, decode (44_payload_interpreters.md R218, first part) -/

theorem outputIs_of_driveEncode {s t : State} (h : exec .driveEncode s = .next t) : OutputIs (driveBytes s.driveArgs) t := by
  cases h
  exact outputIs_emitOut s (driveBytes s.driveArgs) (by simp)

theorem outputIs_of_telemEncode {s t : State} (h : exec .telemEncode s = .next t) :
    OutputIs (telemetryBytes s.telemetryArgs) t := by
  cases h
  exact outputIs_emitOut s (telemetryBytes s.telemetryArgs) (by simp)

/-- DRIVE_DECODE of a loaded drive body reports its fields. -/
theorem exec_driveDecode_of_input {d : DriveBody} {u : State} (h : InputIs (driveBytes d) u) : exec .driveDecode u =
    .next ((u.nextDraw.setResults [zext32 d.direction, zext32 d.duration, zext32 d.speed]).setStatus .ok) := by
  have hb {j : Nat} (hj : j < 3) : u.inByte j = (driveBytes d)[j] := h.startsWith.inByte hj
  refine (execDriveDecode_ok h.1).trans ?_
  rw [hb (by decide), hb (by decide), hb (by decide)]
  rfl

/-- The fields of a loaded telemetry record are the record. -/
theorem telemetryFields_of_input {r : Telemetry} {u : State} (h : InputStartsWith (telemetryBytes r) u) :
    telemetryFields (u.inByte 0) (u.inByte 1) (u.inByte 2) (u.inByte 3) (u.inByte 4) (u.inByte 5) (u.inByte 6)
      (u.inByte 7) (u.inByte 8) = r := by
  have hb {j : Nat} (hj : j < 9) : u.inByte j = (telemetryBytes r)[j] := h.inByte hj
  simp (disch := decide) only [hb]
  exact telemetryFields_telemetryBytes r

/-- TELEM_DECODE of a loaded telemetry record reports the record. -/
theorem exec_telemDecode_of_input {r : Telemetry} {u : State} (h : InputIs (telemetryBytes r) u) : exec .telemDecode u =
    .next ((u.nextDraw.setResults (telemetryResults r)).setStatus .ok) :=
  (execTelemDecode_ok h.1).trans (by rw [telemetryFields_of_input h.startsWith])

/-- Settles O52: the bytes loaded are those of the operands' record, which decodes to that record. -/
theorem interpretersRoundTripThroughBlock : Obligations.InterpretersRoundTripThroughBlock := by
  refine fun s t u bytes hout hin => ⟨fun h => ?_, fun h => ?_⟩
  · obtain rfl : bytes = driveBytes s.driveArgs := hout.unique (outputIs_of_driveEncode h)
    exact ⟨_, exec_driveDecode_of_input hin, rfl, toNat_res_driveArgs s rfl⟩
  · obtain rfl : bytes = telemetryBytes s.telemetryArgs := hout.unique (outputIs_of_telemEncode h)
    exact ⟨_, exec_telemDecode_of_input hin, rfl, toNat_res_telemetryArgs s rfl⟩

/-! ### The record over the wire (44_payload_interpreters.md R218, second part) -/

/-- A Response packet whose payload is a record holds that record. -/
theorem Packet.telemetry?_of_telemetryBytes {p : Packet} {r : Telemetry} (hs : p.header.status = true)
    (hp : p.payload = telemetryBytes r) : p.telemetry? = some r :=
  (Packet.telemetry?_of_record hs hp).trans (congrArg some (telemetryFields_telemetryBytes r))

/-- The packet that SET_TELEMETRY leaves (42_packet_codec.md R152). -/
def State.telemetryPacket (s : State) : Packet :=
  Packet.withPayload { s.pkt with header := s.pkt.header.withTag 1 } (telemetryBytes s.telemetryArgs)

theorem State.length_telemetryPacket (s : State) : s.telemetryPacket.header.length.toNat = 14 :=
  Packet.toNat_length_withPayload _ (by simp)

theorem exec_setTelemetry (s : State) :
    exec .setTelemetry s = .next ((s.setPacket s.telemetryPacket).setStatus .ok) := rfl

/-- Settles O53: PARSE of the wire packet restores header and payload, and so the telemetry record. -/
theorem telemetrySurvivesTheWire : Obligations.TelemetrySurvivesTheWire := by
  intro s t u p wire hset hser hout hin
  cases (exec_setTelemetry s).symm.trans hset
  have hlen : s.telemetryPacket.lengthOk := Packet.lengthOk_withPayload _ (by simp)
  have hok : u.status = .ok := by
    cases (execSerialize_ok (by simp [State.length_telemetryPacket])).symm.trans hser
    rfl
  obtain ⟨q, hq, hqok, hheader, hpayload, -⟩ := parseOfSerializeRestoresPacket _ u p wire hlen hser hok hout hin
  have htel : q.pkt.telemetry? = some s.telemetryArgs :=
    Packet.telemetry?_of_telemetryBytes (congrArg (·.status) hheader) hpayload
  have hhas : q.pkt.hasTelemetry = true := by
    rw [← Packet.isSome_telemetry?, htel]
    rfl
  obtain ⟨h, hh, -, hres⟩ := exec_hasTelemetry q
  exact ⟨q, h, _, hq, hqok, hh, by rw [hres, hhas]; rfl, execGetTelemetry_some htel, rfl, toNat_res_telemetryArgs s rfl⟩

end Sys2Proof.Machine
end

section
/-! PROOF. How a command completes: the code it leaves in STATUS, what a failure changes, and that the old code is never read. -/

namespace Sys2Proof.Machine

/-! ### The completion code (60_exceptions.md R230, R234) -/

/-- A command that ends has succeeded, or has raised an error that its rule names. -/
theorem CommandEnds.status_mem {i : Instr} {s t : State} (h : CommandEnds s i t) : t.status = .ok ∨ t.status ∈ i.mayRaise := by
  cases h with
  | failed d hc => exact .inr hc
  | reported => exact .inl rfl
  | packetWritten => exact .inl rfl
  | emitted => exact .inl rfl
  | serialized => exact .inl rfl

/-- Settles O11: every command ends, and each way to end leaves OK or a code of the command's own. -/
theorem everyCommandCompletes : Obligations.EveryCommandCompletes := by
  intro i s
  obtain ⟨t, ht, hends⟩ := exec_ends i s
  exact ⟨t, ht, hends.status_mem⟩

/-! ### A failure is precise (R236) -/

/-- The only way to end without OK is the failure, which writes STATUS alone. -/
theorem CommandEnds.onlyStatus {i : Instr} {s t : State} (h : CommandEnds s i t) (hne : t.status ≠ .ok) :
    OnlyStatus t.status s t := by
  cases h with
  | failed => exact rfl
  | reported => exact absurd rfl hne
  | packetWritten => exact absurd rfl hne
  | emitted => exact absurd rfl hne
  | serialized => exact absurd rfl hne

/-- Settles O12, by the ways a command can end. -/
theorem failingCommandChangesOnlyStatus : Obligations.FailingCommandChangesOnlyStatus := fun _ _ _ h hne =>
  (CommandEnds.of_exec h).onlyStatus hne

/-! ### The old code (R237) -/

/-- Every effect writes STATUS, so the code that stood there is lost. -/
theorem Effect.apply_withStatus (e : Effect) (s : State) (c : Completion) : e.apply { s with status := c } = e.apply s := by
  cases e <;> rfl

/-- Settles O13: no command reads STATUS, so its effect is the same with any, and the effect overwrites it. -/
theorem statusIsNotSticky : Obligations.StatusIsNotSticky := by
  intro i s c
  obtain ⟨e, -, he⟩ := exec_hasEffect i s
  calc exec i { s with status := c }
    _ = .next (e.apply { s with status := c }) := he { s with status := c } fun _ _ => rfl
    _ = .next (e.apply s) := congrArg _ (e.apply_withStatus s c)
    _ = exec i s := (he s fun _ _ => rfl).symm

end Sys2Proof.Machine
end

section
/-! PROOF. Waiting, the reset pulse and NEW (70_reset_and_hazards.md R260 to R263). -/

namespace Sys2Proof.Machine

/-- Settles O5: `step_idle` for every state. -/
theorem idleStepWaits : Obligations.IdleStepWaits := fun _ hp => step_idle hp

/-- A step whose next event is a reset pulse; only the host's side of the state is kept. -/
theorem step_reset {s : State} {rest : List HostEvent} (hp : s.pending = .reset :: rest) :
    step s = .next (s.setPending rest).pulseReset :=
  step_of_pending hp

/-- NEW writes the packet and STATUS (42_packet_codec.md R130). -/
theorem exec_new (s : State) : exec .new s = .next ((s.setPacket Packet.empty).setStatus .ok) := rfl

/-- Settles O7: the pulse gives the block its reset values and NEW gives the packet alone its reset value, which is the empty
packet. -/
theorem resetPulseLeavesResetState : Obligations.ResetPulseLeavesResetState :=
  fun s _ hp => ⟨step_reset hp, exec_new s⟩

end Sys2Proof.Machine
end
